-- ==== Sys2Proof/Word.lean ====
section
/-! DEFINITION. The word types of the block (R3) and nothing else: bytes, the 16-bit and 24-bit
quantities of the operands and pointers, and the 32-bit command word (R40). -/

namespace Sys2Proof

/-- A uint8, or an int8 where a rule says so (R3). Every access of the block moves one byte (R25). -/
abbrev Byte := BitVec 8

/-- A uint16, or an int16 where a rule says so (R3). -/
abbrev U16 := BitVec 16

/-- A uint24: a FLASH address (R22). -/
abbrev U24 := BitVec 24

/-- A command word (R40). -/
abbrev Word := BitVec 32

end Sys2Proof
end

