-- ==== Sys2Proof/Syntax.lean ====
section
/-! DEFINITION. The commands of the block, one constructor per row of the opcode map (R43). -/

namespace Sys2Proof

/-- A command of the block with its operand (R43). The constructors stand in the order of the opcode map. -/
inductive Instr where
  /-- RADIO_INIT (R66). -/
  | radioInit
  /-- RADIO_SET_CHANNEL `ch`, uint8 (R67). -/
  | radioSetChannel (ch : Byte)
  /-- RADIO_SET_TX_POWER `dBm`, int8 (R68). -/
  | radioSetTxPower (dBm : Byte)
  /-- RADIO_TRANSMIT `buf`, a HOST address (R70). -/
  | radioTransmit (buf : U16)
  /-- RADIO_ENABLE_RX `on` (R76). -/
  | radioEnableRx (on : Bool)
  /-- RADIO_RECEIVE `dst`, a HOST address (R74). -/
  | radioReceive (dst : U16)
  /-- RADIO_FLUSH (R75). -/
  | radioFlush
  /-- RADIO_RX_ACK_GET_LAST (R77). -/
  | radioRxAckGetLast
  /-- RADIO_SET_FREQ_TEST `on` (R69). -/
  | radioSetFreqTest (on : Bool)
  /-- PLATFORM_SET_RADIO_ENABLED `on` (R78). -/
  | platformSetRadioEnabled (on : Bool)
  /-- EPD_SEND_TABLE `id`, 0..3 (R84, R49). -/
  | epdSendTable (id : Byte)
  /-- EPD_POWER_UP_IF_NEEDED (R85). -/
  | epdPowerUpIfNeeded
  /-- EPD_SHUTDOWN (R86). -/
  | epdShutdown
  /-- EPD_START_TRANSFER `isAccent` (R87). -/
  | epdStartTransfer (isAccent : Bool)
  /-- EPD_SEND_BYTE `b`, uint8 (R88). -/
  | epdSendByte (b : Byte)
  /-- EPD_REFRESH_AND_SLEEP (R89). -/
  | epdRefreshAndSleep
  /-- CLIENT_DRAW_IMAGE `addr`, a FLASH address (R94). -/
  | clientDrawImage (addr : U24)
  /-- CLIENT_DRAW_SCREEN `cb`, a callback id (R95). -/
  | clientDrawScreen (cb : Byte)
  /-- CLIENT_SET_WINDOW_X `start, width`, both uint12 (R97). -/
  | clientSetWindowX (start width : BitVec 12)
  /-- CLIENT_SET_WINDOW_Y `start, height`, both uint12 (R98). -/
  | clientSetWindowY (start height : BitVec 12)
  /-- CLIENT_LOAD_RAW_BITMAP `a`, the HOST address of an argument block (R99). -/
  | clientLoadRawBitmap (a : U16)
  /-- CLIENT_PRINT_BEGIN `a`, the HOST address of an argument block (R100). -/
  | clientPrintBegin (a : U16)
  /-- CLIENT_WRITE_CHAR `ch`, uint8 (R101). -/
  | clientWriteChar (ch : Byte)
  /-- CLIENT_PRINT_END (R102). -/
  | clientPrintEnd
  /-- CLIENT_PRINT_BARCODE `a`, the HOST address of an argument block (R103). -/
  | clientPrintBarcode (a : U16)
  deriving DecidableEq, Repr

end Sys2Proof
end

