-- ==== Sys2Proof/WellFormed.lean ====
section
/-! DEFINITION. When a term of `Instr` is a command of the block: every operand fits its field by its
type, and the one operand with fewer meanings than its field has codes is the table id (R44, R49). -/

namespace Sys2Proof

/-- The table ids that have a meaning (R49). -/
def tableIdOk (id : Byte) : Bool := decide (id.toNat ≤ 3)

/-- A command with an operand the block gives a meaning (R44). -/
def Instr.wellFormed : Instr → Bool
  | .epdSendTable id => tableIdOk id
  | .radioInit => true
  | .radioSetChannel _ => true
  | .radioSetTxPower _ => true
  | .radioTransmit _ => true
  | .radioEnableRx _ => true
  | .radioReceive _ => true
  | .radioFlush => true
  | .radioRxAckGetLast => true
  | .radioSetFreqTest _ => true
  | .platformSetRadioEnabled _ => true
  | .epdPowerUpIfNeeded => true
  | .epdShutdown => true
  | .epdStartTransfer _ => true
  | .epdSendByte _ => true
  | .epdRefreshAndSleep => true
  | .clientDrawImage _ => true
  | .clientDrawScreen _ => true
  | .clientSetWindowX _ _ => true
  | .clientSetWindowY _ _ => true
  | .clientLoadRawBitmap _ => true
  | .clientPrintBegin _ => true
  | .clientWriteChar _ => true
  | .clientPrintEnd => true
  | .clientPrintBarcode _ => true

end Sys2Proof
end

