-- ==== Sys2Proof/Decode.lean ====
section
/-! DEFINITION. Decoding of a command word, total on every 32-bit word (R40 to R44), the encoder beside
it, and the assembler syntax with its pseudo-instructions (R46). -/

namespace Sys2Proof

/-- Why a word is refused by the decoder (R44), each with the word. -/
inductive DecodeError where
  /-- An opcode the map does not list. -/
  | reservedOpcode (w : Word)
  /-- A nonzero bit where the format marks `0`. -/
  | reservedBits (w : Word)
  /-- EPD_SEND_TABLE with a table id above 3. -/
  | reservedOperand (w : Word)
  deriving DecidableEq, Repr

/-- `op = w[31:24]` (R40). -/
def opcodeOf (w : Word) : Byte := w.extractLsb' 24 8

/-- `opnd = w[23:0]` (R40). -/
def operandOf (w : Word) : U24 := w.extractLsb' 0 24

/-- The word with a given opcode and operand field (R40). -/
def mkWord (op : Byte) (opnd : U24) : Word := op ++ opnd

/-- Format N: every operand bit is 0 (R41). -/
def fieldN (opnd : U24) : Option Unit := if opnd = 0#24 then some () else none

/-- Format B1: `f = w[0]`, the bits above it 0 (R41). -/
def fieldB1 (opnd : U24) : Option Bool :=
  if opnd.extractLsb' 1 23 = 0#23 then some (opnd.getLsbD 0) else none

/-- Format B8: `b = w[7:0]`, the bits above it 0 (R41). -/
def fieldB8 (opnd : U24) : Option Byte :=
  if opnd.extractLsb' 8 16 = 0#16 then some (opnd.extractLsb' 0 8) else none

/-- Format A16: `a = w[15:0]`, the bits above it 0 (R41). -/
def fieldA16 (opnd : U24) : Option U16 :=
  if opnd.extractLsb' 16 8 = 0#8 then some (opnd.extractLsb' 0 16) else none

/-- Format W12's first operand: `s = w[23:12]` (R41). -/
def fieldStart (opnd : U24) : BitVec 12 := opnd.extractLsb' 12 12

/-- Format W12's second operand: `n = w[11:0]` (R41). -/
def fieldCount (opnd : U24) : BitVec 12 := opnd.extractLsb' 0 12

/-- A format's operand becomes the command, or the word is refused for its reserved bits (R44). -/
def withField {α : Type} (w : Word) (field : Option α) (mk : α → Instr) : Except DecodeError Instr :=
  match field with
  | some x => .ok (mk x)
  | none => .error (.reservedBits w)

/-- EPD_SEND_TABLE: the reserved bits are checked before the table id (R108, V60). -/
def decodeSendTable (w : Word) (field : Option Byte) : Except DecodeError Instr :=
  match field with
  | some id => if tableIdOk id then .ok (.epdSendTable id) else .error (.reservedOperand w)
  | none => .error (.reservedBits w)

/-- The opcode map (R43), on the two fields of the word `w`. -/
def decodeFields (w : Word) (op : Byte) (opnd : U24) : Except DecodeError Instr :=
  if op = 0x01#8 then withField w (fieldN opnd) fun _ => .radioInit
  else if op = 0x02#8 then withField w (fieldB8 opnd) .radioSetChannel
  else if op = 0x03#8 then withField w (fieldB8 opnd) .radioSetTxPower
  else if op = 0x04#8 then withField w (fieldA16 opnd) .radioTransmit
  else if op = 0x05#8 then withField w (fieldB1 opnd) .radioEnableRx
  else if op = 0x06#8 then withField w (fieldA16 opnd) .radioReceive
  else if op = 0x07#8 then withField w (fieldN opnd) fun _ => .radioFlush
  else if op = 0x08#8 then withField w (fieldN opnd) fun _ => .radioRxAckGetLast
  else if op = 0x09#8 then withField w (fieldB1 opnd) .radioSetFreqTest
  else if op = 0x0A#8 then withField w (fieldB1 opnd) .platformSetRadioEnabled
  else if op = 0x10#8 then decodeSendTable w (fieldB8 opnd)
  else if op = 0x11#8 then withField w (fieldN opnd) fun _ => .epdPowerUpIfNeeded
  else if op = 0x12#8 then withField w (fieldN opnd) fun _ => .epdShutdown
  else if op = 0x13#8 then withField w (fieldB1 opnd) .epdStartTransfer
  else if op = 0x14#8 then withField w (fieldB8 opnd) .epdSendByte
  else if op = 0x15#8 then withField w (fieldN opnd) fun _ => .epdRefreshAndSleep
  else if op = 0x20#8 then .ok (.clientDrawImage opnd)
  else if op = 0x21#8 then withField w (fieldB8 opnd) .clientDrawScreen
  else if op = 0x22#8 then .ok (.clientSetWindowX (fieldStart opnd) (fieldCount opnd))
  else if op = 0x23#8 then .ok (.clientSetWindowY (fieldStart opnd) (fieldCount opnd))
  else if op = 0x24#8 then withField w (fieldA16 opnd) .clientLoadRawBitmap
  else if op = 0x25#8 then withField w (fieldA16 opnd) .clientPrintBegin
  else if op = 0x26#8 then withField w (fieldB8 opnd) .clientWriteChar
  else if op = 0x27#8 then withField w (fieldN opnd) fun _ => .clientPrintEnd
  else if op = 0x28#8 then withField w (fieldA16 opnd) .clientPrintBarcode
  else .error (.reservedOpcode w)

/-- The command a word stands for, or the refusal of R44 with the word. -/
def decode (w : Word) : Except DecodeError Instr := decodeFields w (opcodeOf w) (operandOf w)

/-- The opcode of a command (R43). -/
def Instr.opcode : Instr → Byte
  | .radioInit => 0x01#8
  | .radioSetChannel _ => 0x02#8
  | .radioSetTxPower _ => 0x03#8
  | .radioTransmit _ => 0x04#8
  | .radioEnableRx _ => 0x05#8
  | .radioReceive _ => 0x06#8
  | .radioFlush => 0x07#8
  | .radioRxAckGetLast => 0x08#8
  | .radioSetFreqTest _ => 0x09#8
  | .platformSetRadioEnabled _ => 0x0A#8
  | .epdSendTable _ => 0x10#8
  | .epdPowerUpIfNeeded => 0x11#8
  | .epdShutdown => 0x12#8
  | .epdStartTransfer _ => 0x13#8
  | .epdSendByte _ => 0x14#8
  | .epdRefreshAndSleep => 0x15#8
  | .clientDrawImage _ => 0x20#8
  | .clientDrawScreen _ => 0x21#8
  | .clientSetWindowX _ _ => 0x22#8
  | .clientSetWindowY _ _ => 0x23#8
  | .clientLoadRawBitmap _ => 0x24#8
  | .clientPrintBegin _ => 0x25#8
  | .clientWriteChar _ => 0x26#8
  | .clientPrintEnd => 0x27#8
  | .clientPrintBarcode _ => 0x28#8

/-- Format B1's operand field (R41). -/
def encodeB1 (f : Bool) : U24 := if f then 1#24 else 0#24

/-- Format B8's operand field (R41). -/
def encodeB8 (b : Byte) : U24 := 0#16 ++ b

/-- Format A16's operand field (R41). -/
def encodeA16 (a : U16) : U24 := 0#8 ++ a

/-- Format W12's operand field (R41). -/
def encodeW12 (s n : BitVec 12) : U24 := s ++ n

/-- The operand field of a command, in its format (R41, R43). -/
def Instr.operand : Instr → U24
  | .radioInit => 0#24
  | .radioSetChannel ch => encodeB8 ch
  | .radioSetTxPower dBm => encodeB8 dBm
  | .radioTransmit buf => encodeA16 buf
  | .radioEnableRx on => encodeB1 on
  | .radioReceive dst => encodeA16 dst
  | .radioFlush => 0#24
  | .radioRxAckGetLast => 0#24
  | .radioSetFreqTest on => encodeB1 on
  | .platformSetRadioEnabled on => encodeB1 on
  | .epdSendTable id => encodeB8 id
  | .epdPowerUpIfNeeded => 0#24
  | .epdShutdown => 0#24
  | .epdStartTransfer isAccent => encodeB1 isAccent
  | .epdSendByte b => encodeB8 b
  | .epdRefreshAndSleep => 0#24
  | .clientDrawImage addr => addr
  | .clientDrawScreen cb => encodeB8 cb
  | .clientSetWindowX start width => encodeW12 start width
  | .clientSetWindowY start height => encodeW12 start height
  | .clientLoadRawBitmap a => encodeA16 a
  | .clientPrintBegin a => encodeA16 a
  | .clientWriteChar ch => encodeB8 ch
  | .clientPrintEnd => 0#24
  | .clientPrintBarcode a => encodeA16 a

/-- The word of a command (R40, R41, R43). -/
def encode (i : Instr) : Word := mkWord i.opcode i.operand

/-- What the decoder reads from an instruction of `nbits` bits whose bits are `w`, numbered as the
opcode table numbers them. A command is handed over as one 32-bit word (R40), so there is no byte order. -/
def decodeTableWord (nbits w : Nat) : Option Instr :=
  match decode (BitVec.ofNat 32 (w % 2 ^ nbits)) with
  | .ok i => some i
  | .error _ => none

/-- An assembler operand in a range, as a field of `n` bits: `none` is an assembly error (R46). -/
def asmField (n : Nat) (lo hi : Int) (v : Int) : Option (BitVec n) :=
  if lo ≤ v ∧ v ≤ hi then some (BitVec.ofInt n v) else none

/-- The operand 0 or 1 of format B1 (R46). -/
def asmBool (v : Int) : Option Bool :=
  if v = 0 then some false else if v = 1 then some true else none

/-- The assembler (R46): a mnemonic or pseudo-instruction with its integer operands is a command, or an
assembly error. -/
def assemble (mnemonic : String) (ops : List Int) : Option Instr :=
  match mnemonic, ops with
  | "RADIO_INIT", [] => some .radioInit
  | "RADIO_SET_CHANNEL", [v] => (asmField 8 0 255 v).map .radioSetChannel
  | "RADIO_SET_TX_POWER", [v] => (asmField 8 (-128) 127 v).map .radioSetTxPower
  | "RADIO_TRANSMIT", [v] => (asmField 16 0 65535 v).map .radioTransmit
  | "RADIO_ENABLE_RX", [v] => (asmBool v).map .radioEnableRx
  | "RADIO_RECEIVE", [v] => (asmField 16 0 65535 v).map .radioReceive
  | "RADIO_FLUSH", [] => some .radioFlush
  | "RADIO_RX_ACK_GET_LAST", [] => some .radioRxAckGetLast
  | "RADIO_SET_FREQ_TEST", [v] => (asmBool v).map .radioSetFreqTest
  | "PLATFORM_SET_RADIO_ENABLED", [v] => (asmBool v).map .platformSetRadioEnabled
  | "EPD_SEND_TABLE", [v] => (asmField 8 0 255 v).map .epdSendTable
  | "EPD_POWER_UP_IF_NEEDED", [] => some .epdPowerUpIfNeeded
  | "EPD_SHUTDOWN", [] => some .epdShutdown
  | "EPD_START_TRANSFER", [v] => (asmBool v).map .epdStartTransfer
  | "EPD_SEND_BYTE", [v] => (asmField 8 0 255 v).map .epdSendByte
  | "EPD_REFRESH_AND_SLEEP", [] => some .epdRefreshAndSleep
  | "CLIENT_DRAW_IMAGE", [v] => (asmField 24 0 16777215 v).map .clientDrawImage
  | "CLIENT_DRAW_SCREEN", [v] => (asmField 8 0 255 v).map .clientDrawScreen
  | "CLIENT_SET_WINDOW_X", [s, n] =>
    (asmField 12 0 4095 s).bind fun s => (asmField 12 0 4095 n).map fun n => .clientSetWindowX s n
  | "CLIENT_SET_WINDOW_Y", [s, n] =>
    (asmField 12 0 4095 s).bind fun s => (asmField 12 0 4095 n).map fun n => .clientSetWindowY s n
  | "CLIENT_LOAD_RAW_BITMAP", [v] => (asmField 16 0 65535 v).map .clientLoadRawBitmap
  | "CLIENT_PRINT_BEGIN", [v] => (asmField 16 0 65535 v).map .clientPrintBegin
  | "CLIENT_WRITE_CHAR", [v] => (asmField 8 0 255 v).map .clientWriteChar
  | "CLIENT_PRINT_END", [] => some .clientPrintEnd
  | "CLIENT_PRINT_BARCODE", [v] => (asmField 16 0 65535 v).map .clientPrintBarcode
  | "RADIO_RX_ON", [] => some (.radioEnableRx true)
  | "RADIO_RX_OFF", [] => some (.radioEnableRx false)
  | "EPD_START_MONO", [] => some (.epdStartTransfer false)
  | "EPD_START_ACCENT", [] => some (.epdStartTransfer true)
  | _, _ => none

end Sys2Proof
end

