-- ==== Sys2Proof/Config.lean ====
section
/-! DEFINITION. What an implementation fixes and what the environment decides: the parameter record of
R1, the agents' scheduled steps and the values the environment answers (R20), and the FREE values behind
them, opaque constants with no body, so that nothing can be proved of any of them. -/

namespace Sys2Proof

/-- The two panel controllers: master and slave (R79). -/
inductive Ctrl where
  | master
  | slave
  deriving DecidableEq, Repr, Inhabited

/-- A non-empty set of panel controllers (R79, R80). -/
inductive CtrlSet where
  | m
  | s
  | ms
  deriving DecidableEq, Repr, Inhabited

/-- What the count of a panel table's entry counts (R48). -/
inductive CountMode where
  | cmdAndData
  | dataOnly
  deriving DecidableEq, Repr, Inhabited

/-- A colour plane: monochrome (plane 0) or accent (plane 1). -/
inductive Plane where
  | mono
  | accent
  deriving DecidableEq, Repr, Inhabited

/-- A glyph of 16 rows of 10 columns: bit `r * 10 + k` is `G[r][k]` (R101). -/
abbrev Glyph := BitVec 160

/-- `P_RING_N`: the ring's slots (R1). -/
def ringN : Nat := 3

/-- `P_LOW_SPACING` (R1). -/
def lowSpacing : Nat := 3

/-- `P_HIGH_SPACING` (R1). -/
def highSpacing : Nat := 12

/-- `P_T_POLL` in milliseconds (R1). -/
def tPoll : Nat := 50

/-- The parameter record `P` (R1). A parameter whose type is a function is held as a finite table of its
values; outside the table it is the free function of the same name in `Config`. Durations are in
milliseconds. -/
structure Params where
  /-- `P_MAX_PAYLOAD`, 1..252. -/
  maxPayload : Nat
  /-- `P_LOW_FIRST`. -/
  lowFirst : Byte
  /-- `P_LOW_LAST`. -/
  lowLast : Byte
  /-- `P_HIGH_FIRST`. -/
  highFirst : Byte
  /-- `P_HIGH_LAST`. -/
  highLast : Byte
  /-- `P_TABLE_LOW` (R47). -/
  tableLow : List Byte
  /-- `P_TABLE_HIGH` (R47). -/
  tableHigh : List Byte
  /-- `P_TABLE_TEST` (R47). -/
  tableTest : List Byte
  /-- `P_RF_SENTINEL`. -/
  rfSentinel : Byte
  /-- `P_PA_CODE[0..20]`. -/
  paCode : List Byte
  /-- `P_INIT_TX_DBM`, int8. -/
  initTxDbm : Byte
  /-- `P_CHIP_ID_EXPECTED`. -/
  chipIdExpected : Byte
  /-- `P_REG_ID`. -/
  regId : Byte
  /-- `P_REG_CHANNR`. -/
  regChannr : Byte
  /-- `P_REG_PATABLE`. -/
  regPatable : Byte
  /-- `P_RSSI_WRAP8`. -/
  rssiWrap8 : Bool
  /-- `P_TX_TIMEOUT`: `none` or a poll count of at least 1. -/
  txTimeout : Option Nat
  /-- `P_ASSUME_XCVR_LIVE` (R113). -/
  assumeXcvrLive : Bool
  /-- `P_ADC_SCALE` as a table. -/
  adcScale : List (U16 × U16)
  /-- `P_HOST_MEM_SIZE`, 1..65536. -/
  hostMemSize : Nat
  /-- `P_NUM_CTRL`, 1 or 2. -/
  numCtrl : Nat
  /-- `P_TABLE_POWERUP` (R48). -/
  tablePowerup : List Byte
  /-- `P_TABLE_SETUP` (R48). -/
  tableSetup : List Byte
  /-- `P_TABLE_POWERDOWN` (R48). -/
  tablePowerdown : List Byte
  /-- `P_TABLE_REFRESH` (R48). -/
  tableRefresh : List Byte
  /-- `P_EPD_COUNT_MODE`. -/
  epdCountMode : CountMode
  /-- `P_CMD_POWER_ON`. -/
  cmdPowerOn : Byte
  /-- `P_CMD_DTM1`. -/
  cmdDtm1 : Byte
  /-- `P_CMD_DTM2`. -/
  cmdDtm2 : Byte
  /-- `P_CMD_VCOM`. -/
  cmdVcom : Byte
  /-- `P_VCOM_CAL`. -/
  vcomCal : Byte
  /-- `P_T_SETTLE1`. -/
  tSettle1 : Nat
  /-- `P_T_SETTLE2`. -/
  tSettle2 : Nat
  /-- `P_STREAM_ROUTE` as a table: entry `i` is the route of byte index `i`. -/
  streamRoute : List CtrlSet
  /-- `P_CS_ACTIVE`, a pin level. -/
  csActive : Bool
  /-- `P_RST_ACTIVE`, a pin level. -/
  rstActive : Bool
  /-- `P_BUSY_ACTIVE`, a pin level. -/
  busyActive : Bool
  /-- `P_PWR_OFF_LEVEL`, a pin level. -/
  pwrOffLevel : Bool
  /-- `P_ASSUME_PANEL_LIVE` (R113). -/
  assumePanelLive : Bool
  /-- `P_SCREEN_W`, 1..4095. -/
  screenW : Nat
  /-- `P_SCREEN_H`, 1..4095. -/
  screenH : Nat
  /-- `P_BYTES_PER_LINE`. -/
  bytesPerLine : Nat
  /-- `P_LINES_PER_CHUNK`. -/
  linesPerChunk : Nat
  /-- `P_NUM_CHUNKS`. -/
  numChunks : Nat
  /-- `P_SCRATCH_SIZE`. -/
  scratchSize : Nat
  /-- `P_TYPE_1BPP`. -/
  type1bpp : Byte
  /-- `P_TYPE_2BPP`. -/
  type2bpp : Byte
  /-- `P_ALWAYS_BOTH_PASSES`. -/
  alwaysBothPasses : Bool
  /-- `P_NATIVE_BPP`, 1 or 2. -/
  nativeBpp : Nat
  /-- `P_REPACK` as a table. -/
  repack : List ((Plane × Byte) × List Byte)
  /-- `P_PACKED_PLANES`. -/
  packedPlanes : Bool
  /-- `P_PLANE_BIAS`. -/
  planeBias : Nat
  /-- `P_GLYPH` as a table over (size, char). -/
  glyph : List ((Byte × Byte) × Glyph)
  /-- `P_BARCODE_BARS` as a table. -/
  barcodeBars : List (List Byte × List Bool)
  /-- `P_BARCODE_HEIGHT`, at least 1. -/
  barcodeHeight : Nat
  /-- `P_CALLBACK` as a table over (callback id, scanline, chunk, plane). -/
  callback : List ((Byte × Nat × Nat × Plane) × List Word)
  deriving DecidableEq, Repr, Inhabited

/-- A step of an agent other than the host (R7) that the schedule names. The draws of a frame arrival
are the frame's bytes (R62). PANEL, ADC and FLASH answer the host's reads, and TIMER ends a `Sleep`. -/
inductive Move where
  /-- XCVR: a frame arrives (R62). -/
  | frameArrival (f : List Byte)
  /-- XCVR: the transmit finishes (R71). -/
  | txDone
  /-- ISR: the RX completion handler runs (R64). -/
  | isr
  /-- SPI_EPD: the byte in the shifter leaves (R81). -/
  | spiStep
  deriving DecidableEq, Repr, Inhabited

/-- The environment: which agents step at the coming interrupt points, and what the environment answers
at the coming reads (R20). Each list is used up from its head; past its end, an answer is the free value
of `Config` at `draws`, a counter of the answers taken from there. -/
structure Env where
  /-- One entry for each coming point between two host lines: the agents' steps taken there. -/
  sched : List (List Move)
  /-- Answers of `BusRead(P_REG_ID)`. -/
  idBytes : List Byte
  /-- Levels of the busy line. -/
  busy : List Bool
  /-- Codes of `AdcSample`. -/
  adc : List U16
  /-- `RxStopHw(MAYBE_KEEP)`'s choices: `true` keeps the pending completion (R61). -/
  keep : List Bool
  /-- Values of RX_ACK_GET_LAST: `none` is −1 (R77). -/
  acks : List (Option Byte)
  /-- Bytes read from a slot that races with the RX DMA (R30). -/
  race : List Byte
  /-- FLASH's launch contents where they are given (R20, R22). -/
  flash : List Host.Cell
  /-- How many answers came from past the end of their list. -/
  draws : Nat
  deriving DecidableEq, Repr, Inhabited

namespace Config

/-- The parameter record of the hardware: OPEN (R1). -/
opaque params : Params

/-- The environment at launch: free (R20, R123). -/
opaque launchEnv : Env

/-- `P_ADC_SCALE` outside the record's table: OPEN (R1). -/
opaque adcScale : U16 → U16

/-- `P_STREAM_ROUTE` outside the record's table: OPEN (R1). -/
opaque streamRoute : Nat → CtrlSet

/-- `P_REPACK` outside the record's table, output byte by output byte: OPEN (R1). -/
opaque repackByte : Plane → Byte → Nat → Byte

/-- `P_GLYPH` outside the record's table: OPEN (R1). -/
opaque glyph : Byte → Byte → Glyph

/-- `P_BARCODE_BARS` outside the record's table: OPEN (R1). -/
opaque barcodeBars : List Byte → List Bool

/-- `P_CALLBACK` outside the record's table: OPEN (R1). -/
opaque callback : Byte → Nat → Nat → Plane → List Word

/-- FLASH's launch contents where `Env.flash` lists nothing: free (R20). -/
opaque flashByte : Nat → Byte

/-- The identity byte: free (R20). -/
opaque idByte : Nat → Byte

/-- A level of the busy line: free (R20). -/
opaque busyLevel : Nat → Bool

/-- An ADC code: free (R20). -/
opaque adcCode : Nat → U16

/-- Whether `RxStopHw(MAYBE_KEEP)` keeps the pending completion: free (R61). -/
opaque keepPending : Nat → Bool

/-- The value of RX_ACK_GET_LAST: free (R77). -/
opaque ackSeq : Nat → Option Byte

/-- A byte read from a slot that races with the RX DMA: free (R30). -/
opaque raceByte : Nat → Byte

/-- Whether the transceiver's TX-done step is taken at a poll: free (R71, R113). -/
opaque txDoneNow : Nat → Bool

end Config

end Sys2Proof
end

