-- ==== Sys2Proof/Machine/State.lean ====
section
/-! DEFINITION. The state of the block (10_state.md), plain data, with the reasons a run can stop
(60_exceptions.md), the trace's events (R21), the host's position (R9) and the state after reset (R123).
`none` in a field stands for the spec's own UNSET: a cell that holds no value (R124). -/

namespace Sys2Proof.Machine

/-- A byte space as the cells that hold a value, addresses strictly rising. A cell that is not listed is
UNSET (R24). -/
abbrev Memory := List Host.Cell

/-- A place of the block that an access names: a byte space (R22), or a register by its number in
10_state.md. -/
inductive Space where
  | host
  | ring (slot : Fin 3)
  | scratch
  | register
  deriving DecidableEq, Repr

/-- The faults of R106. Each is raised by `raise F(info)`: it is written into `faultMark`, and every
later step answers it. All are safe: the run ends where the spec ends it. -/
inductive Fault where
  /-- `F_UNWRITTEN`: a read of an UNSET cell, with its space and address (R24). For a register the address
  is its number. Safe: the spec gives such a read no value. -/
  | unwritten (sp : Space) (addr : Nat)
  /-- `F_RANGE`: an access past the end of a space or slot (R23). Safe: the cell does not exist. -/
  | range (sp : Space) (addr : Nat)
  /-- `F_RING_RANGE`: the value outside [0, 3] that `freeCount` would take (R13). Safe: the spec's guard. -/
  | ringRange (value : Int)
  /-- `F_STALE_LENGTH`: a slot whose length byte exceeds the maximum (R74 line 6). Safe: the spec's fault. -/
  | staleLength (slot : Fin 3) (len : Byte)
  /-- `F_SCRATCH_OVERFLOW`: a scratch offset past the buffer (R96). Safe: the spec's guard. -/
  | scratchOverflow (offset : Nat)
  /-- `F_SPI_DISCONNECTED`: a byte shifted while the bus is not connected (R81). Safe: the spec's guard. -/
  | spiDisconnected
  deriving DecidableEq, Repr

/-- The refusals of R107. Each is raised by `refuse X(info)`: it is written into `refuseMark`, and every
later step answers it. All are safe: the run ends where the spec ends it. -/
inductive Refusal where
  /-- Raised by no instruction of this model: every arm of `exec` has its meaning. Safe. -/
  | notModelled (mnemonic : String)
  /-- `X_BAD_CONFIG`: the parameter record fails R2. Safe. -/
  | badConfig
  /-- `X_RESERVED_OPCODE(w)` (R44). Safe. -/
  | reservedOpcode (w : Word)
  /-- `X_RESERVED_BITS(w)` (R44). Safe. -/
  | reservedBits (w : Word)
  /-- `X_RESERVED_OPERAND(w)` (R44, R54). Safe. -/
  | reservedOperand (w : Word)
  /-- `X_NOT_IN_DRAW(w)` (R45). Safe. -/
  | notInDraw (w : Word)
  /-- `X_NOT_PRINTING` (R101). Safe. -/
  | notPrinting
  /-- `X_BAD_CALLBACK(w)` (R95). Safe. -/
  | badCallback (w : Word)
  /-- `X_TEST_MODE` (R57). Safe. -/
  | testMode
  /-- `X_EPD_NOT_POWERED` (R84, R88, R89). Safe. -/
  | epdNotPowered
  /-- `X_UNMODELLED_CONFIG` (R94, R95). Safe. -/
  | unmodelledConfig
  deriving DecidableEq, Repr

/-- The statuses of R104. -/
inductive Status where
  | ok
  | hwNotFound
  | notInitialized
  | notEnabled
  | noPackets
  | unsupportedImage
  | badOperand
  | transmitFailed
  deriving DecidableEq, Repr

/-- `cfgPtr` (S6). -/
inductive CfgPtr where
  | none
  | low
  | high
  | test
  deriving DecidableEq, Repr

/-- `curBand` (S7). -/
inductive Band where
  | low
  | high
  deriving DecidableEq, Repr

/-- `radioState` (S12). -/
inductive RadioState where
  | idle
  | rx
  | tx
  deriving DecidableEq, Repr

/-- The command strobes of the transceiver bus (R5). -/
inductive StrobeKind where
  | sres
  | sidle
  | srx
  | stx
  deriving DecidableEq, Repr

/-- The kind of a panel byte (R5). -/
inductive ByteKind where
  | cmd
  | data
  deriving DecidableEq, Repr

/-- The output pins whose writes are events (R79). -/
inductive PinName where
  | pwr
  | rst
  | cs (c : Ctrl)
  deriving DecidableEq, Repr

/-- `direction` (S45). -/
inductive Direction where
  | horizontal
  | vertical
  deriving DecidableEq, Repr

/-- The kinds of log line: the block emits one (R105). -/
inductive LogKind where
  | unsupportedImage
  deriving DecidableEq, Repr

/-- The events of the trace (R21). -/
inductive Event where
  | busWrite (a v : Byte)
  | busRead (a v : Byte)
  | strobe (k : StrobeKind)
  | rxArm (slot : Fin 3)
  | rxFrame (slot : Fin 3) (bytes : List Byte)
  | isrEntry (valid : Bool)
  | txFrame (bytes : List Byte)
  | adc (code : U16)
  | panelByte (t : CtrlSet) (k : ByteKind) (b : Byte)
  | pin (name : PinName) (level : Bool)
  | spiMux (on : Bool)
  | sleep (ms : Nat)
  | flashRead (addr : U24) (n : Nat)
  | log (kind : LogKind) (bytes : List Byte)
  | baselineRepower
  | result (op : Byte) (status : Status)
  deriving DecidableEq, Repr

/-- The busy waits of power-up at which the host may still stand when a step ends (R85 lines 8, 11, 12). -/
inductive BusyWait where
  | line8
  | line11
  | line12
  deriving DecidableEq, Repr

/-- The command that runs `PowerUpIfNeeded()`, with what it does next: the command itself, a transfer
start, or a transfer start that a whole draw issued for a pass. -/
inductive PowerCaller where
  | command
  | startTransfer (isAccent : Bool)
  | drawImage (twoPlanes : Bool) (p : Plane)
  | drawScreen (cb : Byte) (p : Plane)
  deriving DecidableEq, Repr

/-- The command that runs the refresh wait: the command itself, or a whole draw that issued it. -/
inductive RefreshCaller where
  | command
  | drawImage
  | drawScreen
  deriving DecidableEq, Repr

/-- `hostPos` (R9): idle, at a line of a command, or at a hold that has not ended when a step of the model ends,
with the values of the command's own variables. -/
inductive HostPos where
  /-- No command is running. -/
  | idle
  /-- `(opcode, line)`: the command being executed and the line that runs next. -/
  | line (op : Byte) (n : Nat)
  /-- RADIO_TRANSMIT's polling loop, R70 lines 10 to 13, with `polls`. -/
  | txPoll (polls : Nat)
  /-- A busy wait of power-up, R85. -/
  | busyWait (w : BusyWait) (caller : PowerCaller)
  /-- The refresh loop, R89 line 4, with `m`. -/
  | refreshPoll (m : U16) (caller : RefreshCaller)
  deriving DecidableEq, Repr

/-- The line of power-up that a busy wait is (R85). -/
def BusyWait.number : BusyWait → Nat
  | .line8 => 8
  | .line11 => 11
  | .line12 => 12

/-- `(opcode, line)` of a position, `none` while the host is idle (R9). Inside a procedure it is the line that calls
it. -/
def HostPos.position : HostPos → Option (Byte × Nat)
  | .idle => none
  | .line op n => some (op, n)
  | .txPoll _ => some (0x04#8, 10)
  | .busyWait w .command => some (0x11#8, w.number)
  | .busyWait _ (.startTransfer _) => some (0x13#8, 1)
  | .busyWait _ (.drawImage _ _) => some (0x13#8, 1)
  | .busyWait _ (.drawScreen _ _) => some (0x13#8, 1)
  | .refreshPoll _ _ => some (0x15#8, 4)

/-- What the host hands over, in order (R6): a command word (R40), or a store of its own program into
HOST memory (R22), made between two commands. -/
inductive HostAct where
  | command (w : Word)
  | store (a : U16) (b : Byte)
  deriving DecidableEq, Repr

/-- The radio flags S0 to S9 (R10). -/
structure RadioFlags where
  /-- S0. -/
  probed : Bool
  /-- S1. -/
  present : Bool
  /-- S2. -/
  initialized : Bool
  /-- S3. -/
  enabled : Bool
  /-- S4. -/
  freqTest : Bool
  /-- S5. -/
  irqRaisedRx : Bool
  /-- S6. -/
  cfgPtr : CfgPtr
  /-- S7. -/
  curBand : Option Band
  /-- S8. -/
  curChanr : Option Byte
  /-- S9, an index 0..20. -/
  txPowerIdx : Option Nat
  deriving DecidableEq, Repr

/-- The RX/TX arbiter S10 to S15 (R11). -/
structure Arbiter where
  /-- S10. -/
  rxEnabled : Bool
  /-- S11. -/
  rxArmed : Bool
  /-- S12. -/
  radioState : RadioState
  /-- S13. -/
  txDone : Bool
  /-- S14. -/
  txFrame : List Byte
  /-- S15. -/
  txMinBatt : Option U16
  deriving DecidableEq, Repr

/-- The receive ring S16 to S19 (R12). -/
structure Ring where
  /-- S16: the cell of slot `s` and offset `o` stands at address `256 * s + o`. -/
  cells : Memory
  /-- S17. -/
  writeIdx : Option (Fin 3)
  /-- S18. -/
  readIdx : Option (Fin 3)
  /-- S19, a count in 0..3 (R13). -/
  freeCount : Option Nat
  deriving DecidableEq, Repr

/-- The interrupt state S20 and S21 (R16). -/
structure Interrupt where
  /-- S20. -/
  ie : Bool
  /-- S21. -/
  rxDonePending : Bool
  deriving DecidableEq, Repr

/-- The result registers S22 to S26 (R17). -/
structure Results where
  /-- S22. -/
  status : Option Status
  /-- S23, int16. -/
  value : Option U16
  /-- S24. -/
  lqi : Option Byte
  /-- S25, int16. -/
  rssi : Option U16
  /-- S26. -/
  outside : Option Bool
  deriving DecidableEq, Repr

/-- The display engine S27 to S36 (R18). -/
structure Display where
  /-- S27. -/
  epdPowered : Bool
  /-- S28. -/
  spiConnected : Bool
  /-- S29. -/
  pinPwr : Bool
  /-- S30. -/
  pinRst : Bool
  /-- S31 for the master. -/
  pinCsM : Bool
  /-- S31 for the slave. With one controller it is never written. -/
  pinCsS : Bool
  /-- S32. -/
  pinLinesLow : Bool
  /-- S33. -/
  spiBusy : Bool
  /-- S34. -/
  spiHold : Option (CtrlSet × ByteKind × Byte)
  /-- S35. -/
  streamIdx : Nat
  /-- S36. -/
  postRefreshBatt : Option U16
  deriving DecidableEq, Repr

/-- The draw client S37 to S50 (R19). -/
structure Draw where
  /-- S37. -/
  scratch : Memory
  /-- S38. -/
  curX : Option U16
  /-- S38. -/
  curY : Option U16
  /-- S39. -/
  winX0 : Option U16
  /-- S39. -/
  winX1 : Option U16
  /-- S39. -/
  winY0 : Option U16
  /-- S39. -/
  winY1 : Option U16
  /-- S40. -/
  winDrawY : Option U16
  /-- S41. -/
  color : Option Plane
  /-- S42. -/
  passPlane : Option Plane
  /-- S43. -/
  chunkIdx : Option Nat
  /-- S44. -/
  chunkStartY : Option U16
  /-- S45. -/
  fontSize : Option Byte
  /-- S45. -/
  direction : Option Direction
  /-- S46. -/
  bufIdx : Option Nat
  /-- S47. -/
  flashPtr : Option U24
  /-- S48. -/
  drawing : Bool
  /-- S49. -/
  printing : Bool
  /-- S50. -/
  winOutside : Option Bool
  deriving DecidableEq, Repr

/-- The state of the block. `cfg`, `env`, `started` and `hostQueue` are the model's own: the parameter
record the model takes (R1), the environment's answers (R20), whether the record has been checked (R123),
and what the host hands over next (R6). -/
structure State where
  /-- The parameter record `P` (R1). No step writes it. -/
  cfg : Params
  /-- The environment (R20). -/
  env : Env
  /-- The parameter record has been checked and the block runs (R123). -/
  started : Bool
  /-- What the host hands over next. -/
  hostQueue : List HostAct
  /-- R9. -/
  hostPos : HostPos
  /-- S0 to S9. -/
  radio : RadioFlags
  /-- S10 to S15. -/
  arb : Arbiter
  /-- S16 to S19. -/
  ring : Ring
  /-- The transceiver shadow register file, one cell for each register address (R15). -/
  xreg : Memory
  /-- S20 and S21. -/
  irq : Interrupt
  /-- S22 to S26. -/
  res : Results
  /-- S51. -/
  faultMark : Option Fault
  /-- S52. -/
  refuseMark : Option Refusal
  /-- The HOST space (R22). -/
  hostMem : Memory
  /-- S27 to S36. -/
  epd : Display
  /-- S37 to S50. -/
  draw : Draw
  /-- The trace, oldest event first (R21). -/
  trace : List Event
  deriving DecidableEq, Repr

/-- The state after reset: the reset column of 10_state.md (R123, R124), with the parameter record and
the environment free. -/
def State.reset : State where
  cfg := Config.params
  env := Config.launchEnv
  started := false
  hostQueue := []
  hostPos := .idle
  radio :=
    { probed := false, present := false, initialized := false, enabled := false, freqTest := false,
      irqRaisedRx := false, cfgPtr := .none, curBand := none, curChanr := none, txPowerIdx := none }
  arb :=
    { rxEnabled := false, rxArmed := false, radioState := .idle, txDone := false, txFrame := [],
      txMinBatt := none }
  ring := { cells := [], writeIdx := none, readIdx := none, freeCount := none }
  xreg := []
  irq := { ie := true, rxDonePending := false }
  res := { status := none, value := none, lqi := none, rssi := none, outside := none }
  faultMark := none
  refuseMark := none
  hostMem := []
  epd :=
    { epdPowered := false, spiConnected := false, pinPwr := Config.params.pwrOffLevel, pinRst := false,
      pinCsM := false, pinCsS := false, pinLinesLow := true, spiBusy := false, spiHold := none,
      streamIdx := 0, postRefreshBatt := none }
  draw :=
    { scratch := [], curX := none, curY := none, winX0 := none, winX1 := none, winY0 := none,
      winY1 := none, winDrawY := none, color := none, passPlane := none, chunkIdx := none,
      chunkStartY := none, fontSize := none, direction := none, bufIdx := none, flashPtr := none,
      drawing := false, printing := false, winOutside := none }
  trace := []

end Sys2Proof.Machine
end

