-- ==== Sys2Proof/Machine/Ops.lean ====
section
/-! DEFINITION. The shared operations of the block: updates of the state's parts, byte memories (R22 to R24,
R27), the effects of a host line, the environment's answers (R20), the trace's primitives (R5), critical
sections (R34), and how a command ends: with a status (R104), a fault (R106), a refusal (R107) or at a hold. -/

namespace Sys2Proof.Machine

/-! ### Updates of the parts of the state -/

/-- Update the environment. -/
def State.onEnv (f : Env → Env) (s : State) : State := { s with env := f s.env }

/-- Update the radio flags (R10). -/
def State.onRadio (f : RadioFlags → RadioFlags) (s : State) : State := { s with radio := f s.radio }

/-- Update the arbiter (R11). -/
def State.onArb (f : Arbiter → Arbiter) (s : State) : State := { s with arb := f s.arb }

/-- Update the ring (R12). -/
def State.onRing (f : Ring → Ring) (s : State) : State := { s with ring := f s.ring }

/-- Update the transceiver shadow (R15). -/
def State.onXreg (f : Memory → Memory) (s : State) : State := { s with xreg := f s.xreg }

/-- Update the interrupt state (R16). -/
def State.onIrq (f : Interrupt → Interrupt) (s : State) : State := { s with irq := f s.irq }

/-- Update the result registers (R17). -/
def State.onRes (f : Results → Results) (s : State) : State := { s with res := f s.res }

/-- Update the HOST space (R22). -/
def State.onHostMem (f : Memory → Memory) (s : State) : State := { s with hostMem := f s.hostMem }

/-- Update the display engine (R18). -/
def State.onEpd (f : Display → Display) (s : State) : State := { s with epd := f s.epd }

/-- Update the draw client (R19). -/
def State.onDraw (f : Draw → Draw) (s : State) : State := { s with draw := f s.draw }

/-- Append an event to the trace (R21). -/
def State.emit (e : Event) (s : State) : State := { s with trace := s.trace ++ [e] }

/-- Move the host (R9). -/
def State.withHostPos (p : HostPos) (s : State) : State := { s with hostPos := p }

/-- Write the fault mark (R106). -/
def State.withFault (f : Fault) (s : State) : State := { s with faultMark := some f }

/-- Write the refusal mark (R107). -/
def State.withRefusal (x : Refusal) (s : State) : State := { s with refuseMark := some x }

/-- What the host hands over next. -/
def State.withQueue (q : List HostAct) (s : State) : State := { s with hostQueue := q }

/-- The block runs (R123). -/
def State.withStarted (s : State) : State := { s with started := true }

/-! ### Byte memories -/

/-- The byte of a cell, `none` when the cell is UNSET (R24). -/
def Memory.read : Memory → Nat → Option Byte
  | [], _ => none
  | (a, b) :: m, k => if a = k then some b else Memory.read m k

/-- Write one byte (R25). The addresses stay strictly rising. -/
def Memory.write : Memory → Nat → Byte → Memory
  | [], k, v => [(k, v)]
  | (a, b) :: m, k, v =>
    if k < a then (k, v) :: (a, b) :: m
    else if k = a then (k, v) :: m
    else (a, b) :: Memory.write m k v

/-- Write bytes at rising addresses. -/
def Memory.writeBytes : Memory → Nat → List Byte → Memory
  | m, _, [] => m
  | m, k, v :: vs => Memory.writeBytes (Memory.write m k v) (k + 1) vs

/-- The canonical form: addresses strictly rising. An unlisted cell is UNSET, which no entry can equal. -/
def Memory.wf : Memory → Bool
  | [] => true
  | [_] => true
  | (a, _) :: (b, v) :: m => decide (a < b) && Memory.wf ((b, v) :: m)

/-! ### The effect of a host line -/

/-- What ends a command before its `return`. -/
inductive Stop where
  /-- `raise F` (R106). -/
  | fault (f : Fault)
  /-- `refuse X` (R107). -/
  | refuse (x : Refusal)
  /-- The host stays at a hold whose condition no answer has ended yet (R114). -/
  | hold (p : HostPos)
  deriving DecidableEq, Repr

/-- A piece of a command: it goes on with a value, or stops; either way it leaves a state. -/
abbrev M (α : Type) := EStateM Stop State α

/-- `raise F(info)`: the faulting line writes nothing (R106). -/
def raise {α : Type} (f : Fault) : M α := throw (.fault f)

/-- `refuse X(info)` (R107). -/
def refuse {α : Type} (x : Refusal) : M α := throw (.refuse x)

/-- The host stays at `p`. -/
def stayAt {α : Type} (p : HostPos) : M α := throw (.hold p)

/-- Run a body for each element of a list, in order. -/
def forEach {α : Type} (body : α → M Unit) : List α → M Unit
  | [] => pure ()
  | a :: as => do
    body a
    forEach body as

/-- A `for` line: `head`, the loop's own line, runs before each turn, and once more when no turn is left (R9). -/
def forLine {α : Type} (head : M Unit) (body : α → M Unit) (as : List α) : M Unit := do
  forEach (fun a => do
    head
    body a) as
  head

/-- Read a register by its number in 10_state.md: an UNSET one raises `F_UNWRITTEN` (10_state.md, R106, R124). -/
def readReg {α : Type} (no : Nat) (r : Option α) : M α :=
  match r with
  | some v => pure v
  | none => raise (.unwritten .register no)

/-- One line: if it faults it writes nothing (R106). -/
def oneStep (m : M Unit) : M Unit := fun s =>
  match m.run s with
  | .ok a s' => .ok a s'
  | .error e _ => .error e s

/-- `emit E` (R5). -/
def emit (e : Event) : M Unit := modify (State.emit e)

/-- Update the radio flags. -/
def setRadio (f : RadioFlags → RadioFlags) : M Unit := modify (State.onRadio f)

/-- Update the arbiter. -/
def setArb (f : Arbiter → Arbiter) : M Unit := modify (State.onArb f)

/-- Update the ring. -/
def setRing (f : Ring → Ring) : M Unit := modify (State.onRing f)

/-- Update the interrupt state. -/
def setIrq (f : Interrupt → Interrupt) : M Unit := modify (State.onIrq f)

/-- Update the result registers. -/
def setRes (f : Results → Results) : M Unit := modify (State.onRes f)

/-- Update the display engine. -/
def setEpd (f : Display → Display) : M Unit := modify (State.onEpd f)

/-- Update the draw client. -/
def setDraw (f : Draw → Draw) : M Unit := modify (State.onDraw f)

/-- Update the environment. -/
def setEnv (f : Env → Env) : M Unit := modify (State.onEnv f)

/-- `atomic { body }` (R34): the interrupt enable is cleared for the body and then restored. -/
def atomic {α : Type} (body : M α) : M α := do
  let s ← get
  setIrq fun q => { q with ie := false }
  let r ← body
  setIrq fun q => { q with ie := s.irq.ie }
  pure r

/-! ### Accesses to the byte spaces -/

/-- `P_SLOT_SIZE` (R1). -/
def slotSize (p : Params) : Nat := p.maxPayload + 3

/-- The address that stands for offset `o` of slot `r` (R22). -/
def ringAddr (r : Fin 3) (o : Nat) : Nat := 256 * r.val + o

/-- `MemRead(HOST, a, 1)` (R23, R24). -/
def hostRead (a : Nat) : M Byte := do
  let s ← get
  if s.cfg.hostMemSize ≤ a then raise (.range .host a)
  else
    match s.hostMem.read a with
    | some b => pure b
    | none => raise (.unwritten .host a)

/-- `MemWrite(HOST, a, 1, v)` (R23). -/
def hostWrite (a : Nat) (v : Byte) : M Unit := do
  let s ← get
  if s.cfg.hostMemSize ≤ a then raise (.range .host a)
  else modify (State.onHostMem fun m => m.write a v)

/-- The HOST bytes `a .. a + n − 1`, lowest address first (R28). -/
def hostReadBytes : Nat → Nat → M (List Byte)
  | _, 0 => pure []
  | a, n + 1 => do
    let b ← hostRead a
    let bs ← hostReadBytes (a + 1) n
    pure (b :: bs)

/-- The stored byte of a ring cell (R23, R24). -/
def ringRead (r : Fin 3) (o : Nat) : M Byte := do
  let s ← get
  if slotSize s.cfg ≤ o then raise (.range (.ring r) o)
  else
    match s.ring.cells.read (ringAddr r o) with
    | some b => pure b
    | none => raise (.unwritten (.ring r) o)

/-- A scratch cell's byte (R23, R24). -/
def scratchRead (o : Nat) : M Byte := do
  let s ← get
  if s.cfg.scratchSize ≤ o then raise (.range .scratch o)
  else
    match s.draw.scratch.read o with
    | some b => pure b
    | none => raise (.unwritten .scratch o)

/-- Write a scratch cell (R23). -/
def scratchWrite (o : Nat) (v : Byte) : M Unit := do
  let s ← get
  if s.cfg.scratchSize ≤ o then raise (.range .scratch o)
  else setDraw fun d => { d with scratch := d.scratch.write o v }

/-- FLASH's byte at an address (R22): what the environment lists, and the free launch contents elsewhere. -/
def flashRead (env : Env) (a : U24) : Byte :=
  match Memory.read env.flash a.toNat with
  | some b => b
  | none => Config.flashByte a.toNat

/-! ### The environment's answers (R20) -/

/-- The answer from past the end of a list: the free value at the counter, which moves on. -/
def freeAnswer {α : Type} (free : Nat → α) : M α := do
  let s ← get
  setEnv fun v => { v with draws := v.draws + 1 }
  pure (free s.env.draws)

/-- The identity byte that `BusRead(P_REG_ID)` returns. -/
def drawId : M Byte := do
  let s ← get
  match s.env.idBytes with
  | b :: bs => do
    setEnv fun v => { v with idBytes := bs }
    pure b
  | [] => freeAnswer Config.idByte

/-- `AdcSample()`. -/
def adcSample : M U16 := do
  let s ← get
  match s.env.adc with
  | c :: cs => do
    setEnv fun v => { v with adc := cs }
    pure c
  | [] => freeAnswer Config.adcCode

/-- Whether a pending completion is kept (R61). -/
def drawKeep : M Bool := do
  let s ← get
  match s.env.keep with
  | b :: bs => do
    setEnv fun v => { v with keep := bs }
    pure b
  | [] => freeAnswer Config.keepPending

/-- The sequence number of the last acknowledgement, `none` for −1 (R77). -/
def drawAck : M (Option Byte) := do
  let s ← get
  match s.env.acks with
  | b :: bs => do
    setEnv fun v => { v with acks := bs }
    pure b
  | [] => freeAnswer Config.ackSeq

/-- A byte read from a slot that races with the RX DMA (R30). -/
def drawRace : M Byte := do
  let s ← get
  match s.env.race with
  | b :: bs => do
    setEnv fun v => { v with race := bs }
    pure b
  | [] => freeAnswer Config.raceByte

/-- `Busy()`, at a wait that the level `awaited` ends. Past the given readings a live panel reads that level
(R113); otherwise the reading is free. -/
def busyRead (awaited : Bool) : M Bool := do
  let s ← get
  match s.env.busy with
  | b :: bs => do
    setEnv fun v => { v with busy := bs }
    pure b
  | [] => if s.cfg.assumePanelLive then pure awaited else freeAnswer Config.busyLevel

/-! ### The transceiver bus (R5, R15) -/

/-- `BusWrite(a, v) ; xreg[a] <- v`. -/
def busWrite (a v : Byte) : M Unit := do
  emit (.busWrite a v)
  modify (State.onXreg fun m => m.write a.toNat v)

/-- `BusRead(P_REG_ID)`. -/
def busReadId : M Byte := do
  let s ← get
  let v ← drawId
  emit (.busRead s.cfg.regId v)
  pure v

/-- `Strobe(s)`. -/
def strobe (k : StrobeKind) : M Unit := emit (.strobe k)

/-! ### Leaving [0, 3] (R13) -/

/-- `freeCount <- v`, guarded by `F_RING_RANGE`. -/
def setFreeCount (v : Int) : M Unit :=
  if 0 ≤ v ∧ v ≤ 3 then setRing fun r => { r with freeCount := some v.toNat }
  else raise (.ringRange v)

/-! ### How a command ends -/

/-- `return s`: the status is written and `RESULT(op, s)` is emitted (R104). -/
def endCommand (op : Byte) (st : Status) : M Unit := do
  setRes fun r => { r with status := some st }
  emit (.result op st)

/-- A command from where it stands: its pseudocode up to a `return`, and the return. -/
def command (op : Byte) (body : M Status) : M Unit := do
  let st ← body
  endCommand op st

/-- The host's position becomes `p` (R9). -/
def moveTo (p : HostPos) : M Unit := modify (State.withHostPos p)

/-- `Issue(w)`'s nested command (R91): it starts at its first line, and at its end the client stands where it stood. -/
def issue (op : Byte) (body : M Status) : M Unit := do
  let s ← get
  moveTo (.line op 1)
  command op body
  moveTo s.hostPos

/-- What a run of a command leaves: after a `return` the host is idle; `raise` and `refuse` write their mark
and leave the host idle (R9, R106, R107); at a hold the host stands there. -/
def settle : EStateM.Result Stop State Unit → State
  | .ok _ s => s.withHostPos .idle
  | .error (.fault f) s => (s.withFault f).withHostPos .idle
  | .error (.refuse x) s => (s.withRefusal x).withHostPos .idle
  | .error (.hold p) s => s.withHostPos p

/-- Run a command from a state, from its first line on (R9). -/
def runCommand (op : Byte) (body : M Status) (s : State) : State :=
  settle ((command op body).run (s.withHostPos (.line op 1)))

/-- A command goes on from the hold at which it stands (R9, R114). -/
def resumeCommand (op : Byte) (body : M Status) (s : State) : State := settle ((command op body).run s)

end Sys2Proof.Machine
end

