-- ==== Sys2Proof/Machine/Parameters.lean ====
section
/-! DEFINITION. What the parameter record means: its well-formedness (R2), RF tables (R47), panel tables
(R48), and the parameters that are functions, each its table first and its free function outside it. -/

namespace Sys2Proof.Machine

/-- The first entry of a table under a key. -/
def lookup {α β : Type} [DecidableEq α] : List (α × β) → α → Option β
  | [], _ => none
  | (a, b) :: t, k => if a = k then some b else lookup t k

/-- The pairs of an RF table up to the sentinel at an even offset; `none` when there is no sentinel (R47). -/
def rfEntries (sentinel : Byte) : List Byte → Option (List (Byte × Byte))
  | [] => none
  | [a] => if a = sentinel then some [] else none
  | a :: v :: t => if a = sentinel then some [] else (rfEntries sentinel t).map fun es => (a, v) :: es

/-- The number of data bytes of an entry whose count is `n` (R48). -/
def dataBytes (mode : CountMode) (n : Nat) : Nat :=
  match mode with
  | .cmdAndData => n - 1
  | .dataOnly => n

/-- The entries of a panel table read from its start, at most `fuel` of them, up to the zero count; `none`
when no zero count stands at an entry boundary (R48, R83). -/
def panelEntriesUpTo (mode : CountMode) : Nat → List Byte → Option (List (Byte × List Byte))
  | 0, _ => none
  | fuel + 1, t =>
    match t with
    | [] => none
    | n :: rest =>
      if n = 0#8 then some []
      else
        match rest with
        | [] => none
        | cmd :: more =>
          let d := dataBytes mode n.toNat
          if more.length < d then none
          else (panelEntriesUpTo mode fuel (more.drop d)).map fun es => (cmd, more.take d) :: es

/-- The entries of a panel table (R48). -/
def panelEntries (mode : CountMode) (t : List Byte) : Option (List (Byte × List Byte)) :=
  panelEntriesUpTo mode (t.length + 1) t

/-- `P_CHUNK_BYTES` (R1). -/
def chunkBytes (p : Params) : Nat := p.bytesPerLine * p.linesPerChunk

/-- Each parameter of the record lies in the range R1 gives it. -/
def paramsInRange (p : Params) : Bool :=
  decide (1 ≤ p.maxPayload ∧ p.maxPayload ≤ 252) && decide (p.paCode.length = 21)
    && (match p.txTimeout with | none => true | some n => decide (1 ≤ n))
    && decide (1 ≤ p.hostMemSize ∧ p.hostMemSize ≤ 65536)
    && decide (p.numCtrl = 1 ∨ p.numCtrl = 2)
    && decide (1 ≤ p.screenW ∧ p.screenW ≤ 4095) && decide (1 ≤ p.screenH ∧ p.screenH ≤ 4095)
    && decide (p.nativeBpp = 1 ∨ p.nativeBpp = 2)
    && p.repack.all (fun e => decide (e.2.length = p.nativeBpp))
    && decide (1 ≤ p.barcodeHeight)

/-- A parameter record is well formed (R2), its parameters being in R1's ranges. -/
def paramsOk (p : Params) : Bool :=
  paramsInRange p
    && decide (p.lowFirst.toNat ≤ p.lowLast.toNat) && decide (p.highFirst.toNat ≤ p.highLast.toNat)
    && decide ((p.lowLast.toNat - p.lowFirst.toNat) * lowSpacing ≤ 255)
    && decide ((p.highLast.toNat - p.highFirst.toNat) * highSpacing ≤ 255)
    && (rfEntries p.rfSentinel p.tableLow).isSome && (rfEntries p.rfSentinel p.tableHigh).isSome
    && (rfEntries p.rfSentinel p.tableTest).isSome
    && (panelEntries p.epdCountMode p.tablePowerup).isSome
    && (panelEntries p.epdCountMode p.tableSetup).isSome
    && (panelEntries p.epdCountMode p.tablePowerdown).isSome
    && (panelEntries p.epdCountMode p.tableRefresh).isSome
    && decide (chunkBytes p ≤ p.scratchSize) && decide (p.numChunks * p.linesPerChunk = p.screenH)
    && decide (p.screenW ≤ p.bytesPerLine * 8) && decide (slotSize p * ringN ≤ 768)

/-- `P_ADC_SCALE` (R1). -/
def adcScale (p : Params) (code : U16) : U16 :=
  match lookup p.adcScale code with
  | some v => v
  | none => Config.adcScale code

/-- `P_STREAM_ROUTE(i)` (R1); with one controller it is `{M}` for every index (R88). -/
def streamRoute (p : Params) (i : Nat) : CtrlSet :=
  if p.numCtrl = 1 then .m
  else
    match p.streamRoute[i]? with
    | some t => t
    | none => Config.streamRoute i

/-- `P_REPACK(plane, b)`, a list of `P_NATIVE_BPP` bytes (R1, R93). -/
def repack (p : Params) (plane : Plane) (b : Byte) : List Byte :=
  match lookup p.repack (plane, b) with
  | some bs => bs
  | none => (List.range p.nativeBpp).map (Config.repackByte plane b)

/-- `P_GLYPH(size, ch)` (R1). -/
def glyph (p : Params) (size ch : Byte) : Glyph :=
  match lookup p.glyph (size, ch) with
  | some g => g
  | none => Config.glyph size ch

/-- `G[r][k]` of a glyph (R101). -/
def glyphBit (g : Glyph) (r k : Nat) : Bool := g.getLsbD (r * 10 + k)

/-- `P_BARCODE_BARS(str)` (R1). -/
def barcodeBars (p : Params) (str : List Byte) : List Bool :=
  match lookup p.barcodeBars str with
  | some bars => bars
  | none => Config.barcodeBars str

/-- `P_CALLBACK(cb, y, c, plane)` (R1, R95). -/
def callbackWords (p : Params) (cb : Byte) (y c : Nat) (plane : Plane) : List Word :=
  match lookup p.callback (cb, y, c, plane) with
  | some ws => ws
  | none => Config.callback cb y c plane

/-- `ALL` as the controllers in the order the pin loops write them: M, then S (R79, R82). -/
def controllers (p : Params) : List Ctrl := if p.numCtrl = 2 then [.master, .slave] else [.master]

/-- `ALL` as a set (R79). -/
def allSet (p : Params) : CtrlSet := if p.numCtrl = 2 then .ms else .m

end Sys2Proof.Machine
end

