-- ==== Sys2Proof/Machine/Operands.lean ====
section
/-! DEFINITION. Operand assembly (R42), the 16-bit fields of argument blocks (R25, R28, R54), and the
reduction of a value to its register's width (R4). -/

namespace Sys2Proof.Machine

/-- `sext_16(dBm)` of an int8 operand (R42). -/
def signedOperand (b : Byte) : Int := b.toInt

/-- `U16(b) = HOST[b] + 256 × HOST[b + 1]` (R28). -/
def hostU16 (a : Nat) : M Nat := do
  let lo ← hostRead a
  let hi ← hostRead (a + 1)
  pure (lo.toNat + 256 * hi.toNat)

/-- A value reduced modulo 2^16 as it is written to a uint16 register (R4). -/
def toU16 (n : Nat) : U16 := BitVec.ofNat 16 n

/-- The plane of a `color` byte; a byte above 1 has no meaning (R54). -/
def planeOfByte (b : Byte) : Option Plane :=
  if b = 0#8 then some .mono else if b = 1#8 then some .accent else none

/-- The direction of a `direction` byte; a byte above 1 has no meaning (R54). -/
def directionOfByte (b : Byte) : Option Direction :=
  if b = 0#8 then some .horizontal else if b = 1#8 then some .vertical else none

/-- The bit of a bitmap row byte for column `k`, MSB-first (R26, R99). -/
def rowBit (b : Byte) (k : Nat) : Bool := b.getLsbD (7 - k % 8)

/-- The mask of column `x` in its byte: `0x80 >> (x mod 8)` (R26, R96). -/
def pixelMask (x : Nat) : Byte := 0x80#8 >>> (x % 8)

end Sys2Proof.Machine
end

