-- ==== Sys2Proof/Machine/Flags.lean ====
section
/-! DEFINITION. The flag and status computations: the radio gate (R56), a frame's validity (R63), the
link-quality and signal-strength transforms (R72, R73), the gain-code index (R59), the channel register
(R67) and the window test (R98). The block has no arithmetic flags (R4). -/

namespace Sys2Proof.Machine

/-- `RadioGate()` (R56). -/
def radioGate (r : RadioFlags) : Status :=
  if r.probed = true ∧ r.present = false then .hwNotFound
  else if r.initialized = false then .notInitialized
  else if r.enabled = false then .notEnabled
  else .ok

/-- A frame length the ISR accepts: `1 <= L and L <= P_MAX_PAYLOAD` (R63). -/
def lengthValid (p : Params) (len : Byte) : Bool := decide (1 ≤ len.toNat ∧ len.toNat ≤ p.maxPayload)

/-- `Valid(s)` (R63): a length out of range is invalid without reading a status byte. -/
def frameValid (slot : Fin 3) : M Bool := do
  let s ← get
  let len ← ringRead slot 0
  if lengthValid s.cfg len then do
    let status ← ringRead slot (len.toNat + 2)
    pure (status.getLsbD 7)
  else pure false

/-- `LQI(b2)` (R72). -/
def lqi (b2 : Byte) : Byte :=
  let v := 148 - (b2 &&& 0x7F#8).toNat
  if 127 ≤ v then 255#8 else BitVec.ofNat 8 (2 * v)

/-- `RSSI(b1)` as an int16 (R73). -/
def rssi16 (b1 : Byte) : U16 := (b1.signExtend 16).sshiftRight 1 - 77#16

/-- `res_rssi`: the int16, or its low 8 bits sign-extended when `P_RSSI_WRAP8` (R73). -/
def rssi (p : Params) (b1 : Byte) : U16 :=
  if p.rssiWrap8 then ((rssi16 b1).setWidth 8).signExtend 16 else rssi16 b1

/-- The requested power clamped to [−30, 10] (R59). -/
def clampDbm (dBm : Int) : Int := if dBm < -30 then -30 else if dBm > 10 then 10 else dBm

/-- `(d + 30) / 2` of the clamped power, an index 0..20 (R59). -/
def paIndex (dBm : Int) : Nat := ((clampDbm dBm + 30) / 2).toNat

/-- The id lies in the lower band's range (R67 line 3). -/
def inLowBand (p : Params) (ch : Byte) : Bool := decide (p.lowFirst.toNat ≤ ch.toNat ∧ ch.toNat ≤ p.lowLast.toNat)

/-- The id lies in the upper band's range (R67 line 4). -/
def inHighBand (p : Params) (ch : Byte) : Bool := decide (p.highFirst.toNat ≤ ch.toNat ∧ ch.toNat ≤ p.highLast.toNat)

/-- The band and channel-register value of a channel id (R67 lines 3 to 5): the lower band is tested first,
and an id outside both ranges is the upper band's first channel. -/
def channelOf (p : Params) (ch : Byte) : Band × Byte :=
  if inLowBand p ch = true then
    (.low, BitVec.ofNat 8 ((ch.toNat - p.lowFirst.toNat) * lowSpacing))
  else if inHighBand p ch = true then
    (.high, BitVec.ofNat 8 ((ch.toNat - p.highFirst.toNat) * highSpacing))
  else (.high, 0#8)

/-- The configuration pointer of a band (S6). -/
def bandPtr : Band → CfgPtr
  | .low => .low
  | .high => .high

/-- The RF table of a band (R67 line 6). -/
def bandTable (p : Params) : Band → List Byte
  | .low => p.tableLow
  | .high => p.tableHigh

/-- The Y window `[start, start + height)` misses the chunk that starts at line `chunkY` (R98 line 3). -/
def windowOutside (p : Params) (start height chunkY : Nat) : Bool :=
  decide (height = 0 ∨ start + height ≤ chunkY ∨ chunkY + p.linesPerChunk ≤ start)

end Sys2Proof.Machine
end

