-- ==== Sys2Proof/Machine/Agents.lean ====
section
/-! DEFINITION. The agents other than the host (R7): frame arrival (R62), the interrupt handler (R64, R110),
TX done (R71) and the panel byte shifter (R81); the points between two host lines at which they step (R6,
R110, R111); and the host's waits and shared radio procedures that meet them (R58 to R61, R80). -/

namespace Sys2Proof.Machine

/-- `RxStartIfNeeded()` (R60), with `gap` between two of its lines. The conjunction is evaluated from the left
(R108). -/
def rxStart (gap : M Unit) : M Unit :=
  atomic do
    gap
    let s ← get
    if s.arb.rxEnabled = true then do
      let n ← readReg 19 s.ring.freeCount
      if 0 < n ∧ s.arb.rxArmed = false ∧ s.arb.radioState ≠ .tx then do
        setArb fun a => { a with rxArmed := true }
        gap
        let t ← get
        let w ← readReg 17 t.ring.writeIdx
        emit (.rxArm w)
        gap
        strobe .srx
        gap
        setArb fun a => { a with radioState := .rx }
      else pure ()
    else pure ()

/-- A frame the XCVR can bring: its first byte is its length `L` and it has `min(L + 3, P_SLOT_SIZE)` bytes
(R62). -/
def frameShape (p : Params) (f : List Byte) : Bool :=
  match f with
  | [] => false
  | len :: _ => decide (f.length = min (len.toNat + 3) (slotSize p))

/-- `FrameArrival()` (R62). It is no step while it is not enabled. -/
def frameArrival (f : List Byte) : M Unit := do
  let s ← get
  if s.arb.rxArmed = true ∧ s.arb.radioState = .rx ∧ s.irq.rxDonePending = false
      ∧ frameShape s.cfg f = true then do
    let w ← readReg 17 s.ring.writeIdx
    setRing fun r => { r with cells := r.cells.writeBytes (ringAddr w 0) f }
    emit (.rxFrame w f)
    setArb fun a => { a with rxArmed := false, radioState := .idle }
    setIrq fun q => { q with rxDonePending := true }
  else pure ()

/-- `TxDone()` (R71). It is no step while it is not enabled. -/
def txDoneStep : M Unit := do
  let s ← get
  if s.arb.radioState = .tx ∧ s.arb.txDone = false then do
    emit (.txFrame s.arb.txFrame)
    setArb fun a => { a with txDone := true }
  else pure ()

/-- `ISR()` (R64), when it is enabled (R110): with interrupts off, one step, and nothing is saved. A fault inside it
keeps the lines before the faulting one (R106, log entry 27). -/
def isrStep : M Unit := do
  let s ← get
  if s.irq.ie = true ∧ s.irq.rxDonePending = true then
    atomic do
      setIrq fun q => { q with rxDonePending := false }
      setRadio fun r => { r with irqRaisedRx := true }
      let w ← readReg 17 s.ring.writeIdx
      let v ← frameValid w
      emit (.isrEntry v)
      if v = true then do
        setRing fun r => { r with writeIdx := some (w + 1) }
        let n ← readReg 19 s.ring.freeCount
        setFreeCount ((n : Int) - 1)
      else pure ()
      rxStart (pure ())
  else pure ()

/-- `SpiStep()` (R81). It is no step while it is not enabled. -/
def spiStep : M Unit := do
  let s ← get
  if s.epd.spiBusy = true then
    if s.epd.spiConnected = false then raise .spiDisconnected
    else do
      let h ← readReg 34 s.epd.spiHold
      emit (.panelByte h.1 h.2.1 h.2.2)
      setEpd fun d => { d with spiBusy := false }
  else pure ()

/-- One step of an agent other than the host (R7). -/
def takeMove : Move → M Unit
  | .frameArrival f => frameArrival f
  | .txDone => txDoneStep
  | .isr => isrStep
  | .spiStep => spiStep

/-- A point between two host lines, or a hold: the agents' steps that the schedule puts there are taken
(R6, R110, R111). With interrupts off the ISR is not enabled (R34). -/
def tick : M Unit := do
  let s ← get
  match s.env.sched with
  | [] => pure ()
  | ms :: rest => do
    setEnv fun v => { v with sched := rest }
    forEach takeMove ms

/-- The line that the host runs next, `hostPos` moved to it (R9), and the point before it. -/
def atLine (op : Byte) (n : Nat) : M Unit := do
  moveTo (.line op n)
  tick

/-- The agents that are fair whatever the parameters say, each taken if it is enabled (R113). -/
def fairAgents : M Unit := forEach takeMove [.isr, .spiStep]

/-- `await spiBusy = 0`: the shifter's step is fair, so it ends the hold (R80, R113). -/
def awaitShifter : M Unit := do
  tick
  takeMove .spiStep

/-- `Sleep(d)`: the event, and a hold that the TIMER's step ends (R5, R118). -/
def sleep (ms : Nat) : M Unit := do
  emit (.sleep ms)
  tick

/-- `await Busy() = level`, at most `fuel` readings long; then the host stays at `pos` (R85, R114). -/
def awaitBusyUpTo (level : Bool) (pos : HostPos) : Nat → M Unit
  | 0 => stayAt pos
  | fuel + 1 => do
    tick
    let b ← busyRead level
    if b = level then pure () else awaitBusyUpTo level pos fuel

/-- `await Busy() = level` over all the given readings and one more. -/
def awaitBusy (level : Bool) (pos : HostPos) : M Unit := do
  let s ← get
  awaitBusyUpTo level pos (s.env.busy.length + 1)

/-- `RxStartIfNeeded()` of a host line (R60). -/
def rxStartIfNeeded : M Unit := rxStart tick

/-- `RxStopHw(mode)` (R61): `keep` is the mode `MAYBE_KEEP`. -/
def rxStopHw (keep : Bool) : M Unit :=
  atomic do
    tick
    strobe .sidle
    tick
    setArb fun a => { a with rxArmed := false }
    tick
    setArb fun a => { a with radioState := if a.radioState = .rx then .idle else a.radioState }
    tick
    if keep = true then do
      let k ← drawKeep
      setIrq fun q => { q with rxDonePending := q.rxDonePending && k }
    else setIrq fun q => { q with rxDonePending := false }

/-- `ApplyTable(T)` (R58). -/
def applyTable (t : List Byte) : M Unit := do
  let s ← get
  match rfEntries s.cfg.rfSentinel t with
  | none => refuse .badConfig
  | some es =>
    atomic do
      forEach (fun e => do
        tick
        busWrite e.1 e.2) es

/-- `SetPaHw(dBm)` (R59). -/
def setPaHw (dBm : Int) : M Unit := do
  let s ← get
  match s.cfg.paCode[paIndex dBm]? with
  | none => refuse .badConfig
  | some code => do
    tick
    busWrite s.cfg.regPatable code
    tick
    setRadio fun r => { r with txPowerIdx := some (paIndex dBm) }

end Sys2Proof.Machine
end

