-- ==== Sys2Proof/Machine/Transceiver.lean ====
section
/-! DEFINITION. The transceiver driver's commands (R66 to R70): RADIO_INIT, RADIO_SET_CHANNEL,
RADIO_SET_TX_POWER, RADIO_SET_FREQ_TEST and RADIO_TRANSMIT. `atLine op n` stands before line `n`. A line that assigns
and then calls a procedure has a point of its own between the two, and one after the call where the line goes on: the
model's choice, log entry 29. -/

namespace Sys2Proof.Machine

/-- RADIO_INIT (R66). -/
def radioInit : M Status := do
  let s ← get
  atLine 0x01#8 1
  atomic do
    setArb fun a => { a with rxArmed := false, radioState := .idle }
    setIrq fun q => { q with rxDonePending := false }
  atLine 0x01#8 2
  strobe .sres
  atLine 0x01#8 3
  setRadio fun r => { r with probed := true }
  atLine 0x01#8 4
  let id ← busReadId
  atLine 0x01#8 5
  if id ≠ s.cfg.chipIdExpected then do
    atLine 0x01#8 6
    setRadio fun r => { r with present := false, initialized := false, enabled := false }
    atLine 0x01#8 7
    pure .hwNotFound
  else do
    atLine 0x01#8 8
    setRadio fun r => { r with present := true }
    atLine 0x01#8 9
    setRadio fun r => { r with cfgPtr := .high, curBand := some .high, curChanr := none }
    tick
    applyTable s.cfg.tableHigh
    atLine 0x01#8 10
    setPaHw (signedOperand s.cfg.initTxDbm)
    atLine 0x01#8 11
    atomic do
      setRing fun r => { r with writeIdx := some 0, readIdx := some 0, freeCount := some ringN }
    atLine 0x01#8 12
    setArb fun a => { a with rxEnabled := false, txDone := false, txFrame := [] }
    setRadio fun r => { r with freqTest := false, irqRaisedRx := false }
    atLine 0x01#8 13
    setRadio fun r => { r with initialized := true, enabled := true }
    atLine 0x01#8 14
    pure .ok

/-- Lines 1 and 2 of a gated command: its gate answer ends it (R56), and in test mode it is refused (R57). A
command that test mode allows has no such line 2. -/
def gated (op : Byte) (allowsTest : Bool) (onClosed : M Unit) (body : M Status) : M Status := do
  atLine op 1
  let s ← get
  if radioGate s.radio ≠ .ok then do
    onClosed
    pure (radioGate s.radio)
  else if allowsTest = true then body
  else do
    atLine op 2
    let t ← get
    if t.radio.freqTest = true then refuse .testMode else body

/-- Apply a band's table when the configuration pointer is not at it (R67 line 6; the point before the call: log
entry 29). -/
def selectBand (b : Band) : M Unit := do
  let s ← get
  if s.radio.cfgPtr ≠ bandPtr b then do
    setRadio fun r => { r with cfgPtr := bandPtr b }
    tick
    applyTable (bandTable s.cfg b)
  else pure ()

/-- The tests that choose the band, each at its line (R67 lines 3 to 5). They write only the command's own variables. -/
def bandTests (ch : Byte) : M Unit := do
  let s ← get
  atLine 0x02#8 3
  if inLowBand s.cfg ch = true then pure ()
  else do
    atLine 0x02#8 4
    if inHighBand s.cfg ch = true then pure () else atLine 0x02#8 5

/-- RADIO_SET_CHANNEL's own lines (R67 lines 3 to 9). -/
def setChannelLines (ch : Byte) : M Status := do
  let s ← get
  bandTests ch
  atLine 0x02#8 6
  selectBand (channelOf s.cfg ch).1
  atLine 0x02#8 7
  setRadio fun r =>
    { r with curBand := some (channelOf s.cfg ch).1, curChanr := some (channelOf s.cfg ch).2 }
  atLine 0x02#8 8
  busWrite s.cfg.regChannr (channelOf s.cfg ch).2
  atLine 0x02#8 9
  pure .ok

/-- RADIO_SET_CHANNEL (R67). -/
def radioSetChannel (ch : Byte) : M Status := gated 0x02#8 false (pure ()) (setChannelLines ch)

/-- RADIO_SET_TX_POWER (R68), allowed in test mode. -/
def radioSetTxPower (dBm : Byte) : M Status :=
  gated 0x03#8 true (pure ()) do
    atLine 0x03#8 2
    setPaHw (signedOperand dBm)
    atLine 0x03#8 3
    pure .ok

/-- RADIO_SET_FREQ_TEST 1 out of test mode (R69 lines 3 and 4). -/
def enterFreqTest : M Unit := do
  let s ← get
  atLine 0x09#8 3
  rxStopHw false
  atLine 0x09#8 4
  setRadio fun r => { r with freqTest := true, cfgPtr := .test }
  tick
  applyTable s.cfg.tableTest

/-- RADIO_SET_FREQ_TEST 0 in test mode (R69 lines 6 to 8). -/
def leaveFreqTest : M Unit := do
  atLine 0x09#8 6
  let s ← get
  let b ← readReg 7 s.radio.curBand
  setRadio fun r => { r with freqTest := false, cfgPtr := bandPtr b }
  tick
  applyTable (bandTable s.cfg b)
  atLine 0x09#8 7
  match s.radio.curChanr with
  | some c => busWrite s.cfg.regChannr c
  | none => pure ()
  atLine 0x09#8 8
  rxStartIfNeeded

/-- RADIO_SET_FREQ_TEST (R69). -/
def radioSetFreqTest (on : Bool) : M Status :=
  gated 0x09#8 true (pure ()) do
    atLine 0x09#8 2
    let s ← get
    if on = true ∧ s.radio.freqTest = false then enterFreqTest
    else do
      atLine 0x09#8 5
      let t ← get
      if on = false ∧ t.radio.freqTest = true then leaveFreqTest else pure ()
    atLine 0x09#8 9
    pure .ok

/-- `res_value <- v` of a bool or length (R17). -/
def setValue (v : U16) : M Unit := setRes fun r => { r with value := some v }

/-- RADIO_TRANSMIT's end (R70 lines 15 to 18). -/
def transmitEnd : M Status := do
  atLine 0x04#8 15
  setArb fun a => { a with radioState := .idle }
  atLine 0x04#8 16
  rxStartIfNeeded
  atLine 0x04#8 17
  setValue 1#16
  atLine 0x04#8 18
  pure .ok

/-- RADIO_TRANSMIT's timeout (R70 line 14; the points at the call: log entry 29). -/
def transmitTimeout : M Status := do
  atLine 0x04#8 14
  strobe .sidle
  setArb fun a => { a with radioState := .idle }
  tick
  rxStartIfNeeded
  tick
  setValue 0#16
  pure .transmitFailed

/-- `polls` has reached `P_TX_TIMEOUT` (R70 line 13). -/
def timedOut (p : Params) (polls : Nat) : Bool :=
  match p.txTimeout with
  | none => false
  | some n => decide (n ≤ polls)

/-- Past the schedule's end, between two polls: a live transceiver's TX-done step is taken (R113); otherwise
whether it is taken is free. -/
def xcvrBetweenPolls : M Unit := do
  let s ← get
  match s.env.sched with
  | [] =>
    if s.cfg.assumeXcvrLive = true then takeMove .txDone
    else do
      let d ← freeAnswer Config.txDoneNow
      if d = true then takeMove .txDone else pure ()
  | _ :: _ => pure ()

/-- RADIO_TRANSMIT's polling loop (R70 lines 10 to 14), at most `fuel` polls long; then the host stays in the
loop (R114). -/
def transmitPolls : Nat → Nat → M Status
  | 0, polls => stayAt (.txPoll polls)
  | fuel + 1, polls => do
    atLine 0x04#8 10
    atLine 0x04#8 11
    let v ← adcSample
    emit (.adc v)
    let s ← get
    let m ← readReg 15 s.arb.txMinBatt
    setArb fun a => { a with txMinBatt := some (if v.toNat < m.toNat then v else m) }
    atLine 0x04#8 12
    let t ← get
    if t.arb.txDone = true then transmitEnd
    else do
      atLine 0x04#8 13
      if timedOut t.cfg (polls + 1) = true then transmitTimeout
      else do
        xcvrBetweenPolls
        transmitPolls fuel (polls + 1)

/-- The polling loop, long enough for every scheduled point and the polls after them. -/
def transmitLoop (polls : Nat) : M Status := do
  let s ← get
  transmitPolls (s.env.sched.length + 2) polls

/-- RADIO_TRANSMIT's own lines (R70 lines 3 to 18). -/
def transmitLines (buf : U16) : M Status := do
  let s ← get
  atLine 0x04#8 3
  let len ← hostRead buf.toNat
  atLine 0x04#8 4
  if lengthValid s.cfg len = false then do
    setValue 0#16
    pure .badOperand
  else do
    atLine 0x04#8 5
    rxStopHw true
    atLine 0x04#8 6
    let frame ← hostReadBytes buf.toNat (len.toNat + 1)
    setArb fun a => { a with txFrame := frame }
    atLine 0x04#8 7
    setArb fun a => { a with txDone := false }
    atLine 0x04#8 8
    strobe .stx
    setArb fun a => { a with radioState := .tx }
    atLine 0x04#8 9
    setArb fun a => { a with txMinBatt := some 0xFFFF#16 }
    transmitLoop 0

/-- RADIO_TRANSMIT (R70). -/
def radioTransmit (buf : U16) : M Status := gated 0x04#8 false (setValue 0#16) (transmitLines buf)

/-! ### The meanings -/

/-- RADIO_INIT (R66). -/
def execRadioInit (s : State) : Host.Outcome State Fault Refusal :=
  .next (runCommand 0x01#8 radioInit s)

/-- RADIO_SET_CHANNEL (R67). -/
def execRadioSetChannel (ch : Byte) (s : State) : Host.Outcome State Fault Refusal :=
  .next (runCommand 0x02#8 (radioSetChannel ch) s)

/-- RADIO_SET_TX_POWER (R68). -/
def execRadioSetTxPower (dBm : Byte) (s : State) : Host.Outcome State Fault Refusal :=
  .next (runCommand 0x03#8 (radioSetTxPower dBm) s)

/-- RADIO_TRANSMIT (R70). -/
def execRadioTransmit (buf : U16) (s : State) : Host.Outcome State Fault Refusal :=
  .next (runCommand 0x04#8 (radioTransmit buf) s)

/-- RADIO_SET_FREQ_TEST (R69). -/
def execRadioSetFreqTest (on : Bool) (s : State) : Host.Outcome State Fault Refusal :=
  .next (runCommand 0x09#8 (radioSetFreqTest on) s)

end Sys2Proof.Machine
end

