-- ==== Sys2Proof/Machine/RadioLink.lean ====
section
/-! DEFINITION. The radio link's commands (R74 to R78): RADIO_RECEIVE, RADIO_FLUSH, RADIO_ENABLE_RX,
RADIO_RX_ACK_GET_LAST and PLATFORM_SET_RADIO_ENABLED. `atLine op n` stands before line `n`. -/

namespace Sys2Proof.Machine

/-- `SlotRead(r, o)` (R74): a read of the slot the RX DMA is armed into is a fresh draw (R30). -/
def slotRead (r : Fin 3) (o : Nat) : M Byte := do
  let s ← get
  if slotSize s.cfg ≤ o then raise (.range (.ring r) o)
  else if s.ring.writeIdx = some r ∧ s.arb.rxArmed = true then drawRace
  else ringRead r o

/-- RADIO_RECEIVE's copy of byte `i`, one line (R74 line 9). -/
def receiveByte (dst : U16) (r : Fin 3) (i : Nat) : M Unit := do
  atLine 0x06#8 9
  let b ← slotRead r i
  hostWrite (dst.toNat + i) b

/-- RADIO_RECEIVE frees the slot (R74 line 11): whether the ring was full is its answer. -/
def freeSlot : M Bool := do
  let s ← get
  let n ← readReg 19 s.ring.freeCount
  oneStep (atomic (setFreeCount ((n : Int) + 1)))
  pure (decide (n = 0))

/-- RADIO_RECEIVE of a pending frame (R74 lines 4 to 14). -/
def receiveFrame (dst : U16) : M Status := do
  atLine 0x06#8 4
  let s ← get
  let r ← readReg 18 s.ring.readIdx
  atLine 0x06#8 5
  let len ← slotRead r 0
  atLine 0x06#8 6
  if s.cfg.maxPayload < len.toNat then raise (.staleLength r len)
  else do
    atLine 0x06#8 7
    let b2 ← slotRead r (len.toNat + 2)
    setRes fun v => { v with lqi := some (lqi b2) }
    atLine 0x06#8 8
    let b1 ← slotRead r (len.toNat + 1)
    setRes fun v => { v with rssi := some (rssi s.cfg b1) }
    forEach (receiveByte dst r) (List.range (len.toNat + 1))
    atLine 0x06#8 10
    setRing fun g => { g with readIdx := some (r + 1) }
    atLine 0x06#8 11
    let wasFull ← freeSlot
    atLine 0x06#8 12
    if wasFull = true then rxStartIfNeeded else pure ()
    atLine 0x06#8 13
    setValue (len.setWidth 16)
    atLine 0x06#8 14
    pure .ok

/-- RADIO_RECEIVE's own lines (R74 lines 3 to 14). -/
def receiveLines (dst : U16) : M Status := do
  atLine 0x06#8 3
  let s ← get
  let n ← readReg 19 s.ring.freeCount
  if n = ringN then pure .noPackets else receiveFrame dst

/-- RADIO_RECEIVE (R74). -/
def radioReceive (dst : U16) : M Status := gated 0x06#8 false (pure ()) (receiveLines dst)

/-- RADIO_FLUSH marks every slot free (R75 line 3): whether the ring was full is its answer. -/
def flushRing : M Bool := do
  let s ← get
  let n ← readReg 19 s.ring.freeCount
  atomic (setFreeCount ringN)
  pure (decide (n = 0))

/-- RADIO_FLUSH's own lines (R75 lines 3 to 5). -/
def flushLines : M Status := do
  atLine 0x07#8 3
  let wasFull ← flushRing
  atLine 0x07#8 4
  if wasFull = true then rxStartIfNeeded else pure ()
  atLine 0x07#8 5
  pure .ok

/-- RADIO_FLUSH (R75). -/
def radioFlush : M Status := gated 0x07#8 false (pure ()) flushLines

/-- RADIO_ENABLE_RX's own lines (R76 lines 3 to 8). Line 4's two assignments are one action (R6), and the point after its
call is the model's choice (log entry 29). -/
def enableRxLines (on : Bool) : M Status := do
  atLine 0x05#8 3
  if on = false then do
    atLine 0x05#8 4
    atomic do
      rxStopHw false
      tick
      setRadio fun r => { r with irqRaisedRx := false }
      setArb fun a => { a with rxEnabled := false }
  else do
    atLine 0x05#8 5
    let s ← get
    if s.arb.rxEnabled = false then do
      atLine 0x05#8 6
      setArb fun a => { a with rxEnabled := true }
      atLine 0x05#8 7
      rxStartIfNeeded
    else pure ()
  atLine 0x05#8 8
  pure .ok

/-- RADIO_ENABLE_RX (R76). -/
def radioEnableRx (on : Bool) : M Status := gated 0x05#8 false (pure ()) (enableRxLines on)

/-- The int16 of an acknowledgement's sequence number, −1 for none (R77). -/
def ackValue (v : Option Byte) : U16 :=
  match v with
  | some b => b.setWidth 16
  | none => 0xFFFF#16

/-- RADIO_RX_ACK_GET_LAST's own lines (R77 lines 3 to 5). -/
def ackLines : M Status := do
  atLine 0x08#8 3
  let v ← drawAck
  atLine 0x08#8 4
  setValue (ackValue v)
  atLine 0x08#8 5
  pure .ok

/-- RADIO_RX_ACK_GET_LAST (R77): a closed gate leaves −1. -/
def radioRxAckGetLast : M Status := gated 0x08#8 false (setValue (ackValue none)) ackLines

/-- PLATFORM_SET_RADIO_ENABLED (R78), not gated. -/
def platformSetRadioEnabled (on : Bool) : M Status := do
  atLine 0x0A#8 1
  setRadio fun r => { r with enabled := on }
  atLine 0x0A#8 2
  pure .ok

/-! ### The meanings -/

/-- RADIO_ENABLE_RX (R76). -/
def execRadioEnableRx (on : Bool) (s : State) : Host.Outcome State Fault Refusal :=
  .next (runCommand 0x05#8 (radioEnableRx on) s)

/-- RADIO_RECEIVE (R74). -/
def execRadioReceive (dst : U16) (s : State) : Host.Outcome State Fault Refusal :=
  .next (runCommand 0x06#8 (radioReceive dst) s)

/-- RADIO_FLUSH (R75). -/
def execRadioFlush (s : State) : Host.Outcome State Fault Refusal :=
  .next (runCommand 0x07#8 radioFlush s)

/-- RADIO_RX_ACK_GET_LAST (R77). -/
def execRadioRxAckGetLast (s : State) : Host.Outcome State Fault Refusal :=
  .next (runCommand 0x08#8 radioRxAckGetLast s)

/-- PLATFORM_SET_RADIO_ENABLED (R78). -/
def execPlatformSetRadioEnabled (on : Bool) (s : State) : Host.Outcome State Fault Refusal :=
  .next (runCommand 0x0A#8 (platformSetRadioEnabled on) s)

end Sys2Proof.Machine
end

