-- ==== Sys2Proof/Machine/DisplayEngine.lean ====
section
/-! DEFINITION. The display transfer engine (R79 to R89): the pins, the byte shifter's host side, entries and
tables, power-up, shutdown, the start of a transfer, byte streaming and the refresh. `atLine op n` stands before
line `n`. -/

namespace Sys2Proof.Machine

/-- `Pin(CS_c) <- level` (R79). -/
def pinCs (level : Bool) (c : Ctrl) : M Unit := do
  setEpd fun d =>
    match c with
    | .master => { d with pinCsM := level }
    | .slave => { d with pinCsS := level }
  emit (.pin (.cs c) level)

/-- `for c in ALL: Pin(CS_c) <- level`, each pin write its own line (R82). -/
def pinCsAll (level : Bool) : M Unit := do
  let s ← get
  forEach (fun c => do
    tick
    pinCs level c) (controllers s.cfg)

/-- `Pin(RST) <- level` (R79). -/
def pinRst (level : Bool) : M Unit := do
  setEpd fun d => { d with pinRst := level }
  emit (.pin .rst level)

/-- `Pin(PWR) <- level` (R79). -/
def pinPwr (level : Bool) : M Unit := do
  setEpd fun d => { d with pinPwr := level }
  emit (.pin .pwr level)

/-- The bus multiplexer and the remaining control lines change together (R79). -/
def spiMux (on : Bool) : M Unit := do
  setEpd fun d => { d with spiConnected := on, pinLinesLow := !on }
  emit (.spiMux on)

/-- `PanelSend(T, k, b)` (R80): it does not wait for its own byte. -/
def panelSend (t : CtrlSet) (k : ByteKind) (b : Byte) : M Unit := do
  awaitShifter
  tick
  setEpd fun d => { d with spiHold := some (t, k, b) }
  tick
  setEpd fun d => { d with spiBusy := true }

/-- `SpiDrain()` (R80). -/
def spiDrain : M Unit := awaitShifter

/-- `SendEntry(cmd, data)` (R82). -/
def sendEntry (cmd : Byte) (data : List Byte) : M Unit := do
  let s ← get
  spiDrain
  pinCsAll s.cfg.csActive
  panelSend (allSet s.cfg) .cmd cmd
  forEach (panelSend (allSet s.cfg) .data) data
  spiDrain
  pinCsAll (!s.cfg.csActive)

/-- `SendTable(tbl)` (R83). -/
def sendTable (t : List Byte) : M Unit := do
  let s ← get
  match panelEntries s.cfg.epdCountMode t with
  | none => refuse .badConfig
  | some es => forEach (fun e => sendEntry e.1 e.2) es

/-- The four panel tables by id (R49, R84 line 2). -/
def tableOfId (p : Params) (id : Byte) : Option (List Byte) :=
  [p.tablePowerup, p.tableSetup, p.tablePowerdown, p.tableRefresh][id.toNat]?

/-- EPD_SEND_TABLE (R84). An id above 3 is refused before the panel is looked at (R108). -/
def epdSendTable (id : Byte) : M Status := do
  atLine 0x10#8 1
  let s ← get
  match tableOfId s.cfg id with
  | none => refuse (.reservedOperand (encode (.epdSendTable id)))
  | some t =>
    if s.epd.epdPowered = false then refuse .epdNotPowered
    else do
      atLine 0x10#8 2
      sendTable t
      atLine 0x10#8 3
      pure .ok

/-- The host's position at line `n` of power-up (R9): inside the procedure it stays at the line that calls it. -/
def PowerCaller.goTo (caller : PowerCaller) (n : Nat) : M Unit :=
  match caller with
  | .command => moveTo (.line 0x11#8 n)
  | .startTransfer _ => pure ()
  | .drawImage _ _ => pure ()
  | .drawScreen _ _ => pure ()

/-- Line `n` of power-up, and the point before it. -/
def PowerCaller.atLine (caller : PowerCaller) (n : Nat) : M Unit := do
  caller.goTo n
  tick

/-- After line 15 the command goes on to its return at line 16; a procedure has ended (R85). -/
def PowerCaller.finish (caller : PowerCaller) : M Unit :=
  match caller with
  | .command => Machine.atLine 0x11#8 16
  | .startTransfer _ => pure ()
  | .drawImage _ _ => pure ()
  | .drawScreen _ _ => pure ()

/-- Power-up from line 12 on (R85). -/
def powerUpFrom12 (caller : PowerCaller) : M Unit := do
  let s ← get
  caller.goTo 12
  awaitBusy (!s.cfg.busyActive) (.busyWait .line12 caller)
  caller.atLine 13
  sendTable s.cfg.tableSetup
  caller.atLine 14
  sendEntry s.cfg.cmdVcom [s.cfg.vcomCal]
  caller.atLine 15
  setEpd fun d => { d with epdPowered := true }
  caller.finish

/-- Power-up from line 11 on (R85). -/
def powerUpFrom11 (caller : PowerCaller) : M Unit := do
  let s ← get
  caller.goTo 11
  awaitBusy s.cfg.busyActive (.busyWait .line11 caller)
  powerUpFrom12 caller

/-- Power-up from line 8 on (R85). -/
def powerUpFrom8 (caller : PowerCaller) : M Unit := do
  let s ← get
  caller.goTo 8
  awaitBusy (!s.cfg.busyActive) (.busyWait .line8 caller)
  caller.atLine 9
  sendTable s.cfg.tablePowerup
  caller.atLine 10
  sendEntry s.cfg.cmdPowerOn []
  powerUpFrom11 caller

/-- Power-up from the wait it stands at. -/
def powerUpFrom (w : BusyWait) (caller : PowerCaller) : M Unit :=
  match w with
  | .line8 => powerUpFrom8 caller
  | .line11 => powerUpFrom11 caller
  | .line12 => powerUpFrom12 caller

/-- `PowerUpIfNeeded()` (R85 lines 1 to 15). The return of line 1 ends it. -/
def powerUpIfNeeded (caller : PowerCaller) : M Unit := do
  caller.atLine 1
  let s ← get
  if s.epd.epdPowered = true then pure ()
  else do
    caller.atLine 2
    pinCsAll (!s.cfg.csActive)
    caller.atLine 3
    pinPwr (!s.cfg.pwrOffLevel)
    caller.atLine 4
    spiMux true
    caller.atLine 5
    sleep s.cfg.tSettle1
    caller.atLine 6
    pinRst (!s.cfg.rstActive)
    caller.atLine 7
    sleep s.cfg.tSettle2
    powerUpFrom8 caller

/-- EPD_POWER_UP_IF_NEEDED (R85): it returns from line 1 or from line 16. -/
def epdPowerUpIfNeeded : M Status := do
  powerUpIfNeeded .command
  pure .ok

/-- `Shutdown()` (R86 lines 1 to 9), `point n` standing before line `n`; line 10 is the command's return after line 9. The
return of line 1 ends it. -/
def shutdown (point : Nat → M Unit) : M Unit := do
  point 1
  let s ← get
  if s.epd.epdPowered = false then pure ()
  else do
    point 2
    sendTable s.cfg.tablePowerdown
    point 3
    spiDrain
    point 4
    spiMux false
    point 5
    pinCsAll false
    point 6
    pinRst false
    point 7
    pinPwr s.cfg.pwrOffLevel
    point 8
    setEpd fun d => { d with epdPowered := false }
    point 9
    setEpd fun d => { d with streamIdx := 0 }
    point 10

/-- EPD_SHUTDOWN (R86): it returns from line 1 or from line 10. -/
def epdShutdown : M Status := do
  shutdown (atLine 0x12#8)
  pure .ok

/-- A point before each line of `Shutdown()` as a procedure, which has no line 10: the host's position stays at the line
that calls it (R86, R89). -/
def shutdownPoint (n : Nat) : M Unit := if n ≤ 9 then tick else pure ()

/-- EPD_START_TRANSFER after the power-up (R87 lines 2 to 4). -/
def startTransferTail (isAccent : Bool) : M Status := do
  atLine 0x13#8 2
  let s ← get
  sendEntry (if isAccent = true then s.cfg.cmdDtm2 else s.cfg.cmdDtm1) []
  atLine 0x13#8 3
  setEpd fun d => { d with streamIdx := 0 }
  atLine 0x13#8 4
  pure .ok

/-- EPD_START_TRANSFER (R87), called from `caller`. -/
def startTransfer (caller : PowerCaller) (isAccent : Bool) : M Status := do
  powerUpIfNeeded caller
  startTransferTail isAccent

/-- EPD_SEND_BYTE (R88). -/
def epdSendByte (b : Byte) : M Status := do
  atLine 0x14#8 1
  let s ← get
  if s.epd.epdPowered = false then refuse .epdNotPowered
  else do
    atLine 0x14#8 2
    atLine 0x14#8 3
    panelSend (streamRoute s.cfg s.epd.streamIdx) .data b
    atLine 0x14#8 4
    setEpd fun d => { d with streamIdx := d.streamIdx + 1 }
    atLine 0x14#8 5
    pure .ok

/-- The smaller of two codes (R4). -/
def minCode (a b : U16) : U16 := if b.toNat < a.toNat then b else a

/-- The refresh loop (R89 lines 4 to 7), at most `fuel` readings long; then the host stays in it (R114). -/
def refreshPolls (caller : RefreshCaller) : Nat → U16 → M U16
  | 0, m => stayAt (.refreshPoll m caller)
  | fuel + 1, m => do
    let s ← get
    atLine 0x15#8 4
    atLine 0x15#8 5
    sleep tPoll
    atLine 0x15#8 6
    let v ← adcSample
    emit (.adc v)
    atLine 0x15#8 7
    let b ← busyRead (!s.cfg.busyActive)
    if b ≠ s.cfg.busyActive then pure (minCode m v)
    else refreshPolls caller fuel (minCode m v)

/-- EPD_REFRESH_AND_SLEEP from its loop on (R89 lines 4 to 11). -/
def refreshFrom (caller : RefreshCaller) (m : U16) : M Status := do
  let s ← get
  let low ← refreshPolls caller (s.env.busy.length + 1) m
  atLine 0x15#8 8
  setEpd fun d => { d with postRefreshBatt := some (adcScale s.cfg low) }
  atLine 0x15#8 9
  emit .baselineRepower
  atLine 0x15#8 10
  shutdown shutdownPoint
  atLine 0x15#8 11
  pure .ok

/-- EPD_REFRESH_AND_SLEEP (R89), called from `caller`. -/
def refreshAndSleep (caller : RefreshCaller) : M Status := do
  atLine 0x15#8 1
  let s ← get
  if s.epd.epdPowered = false then refuse .epdNotPowered
  else do
    atLine 0x15#8 2
    sendTable s.cfg.tableRefresh
    atLine 0x15#8 3
    refreshFrom caller 0xFFFF#16

/-! ### The meanings -/

/-- EPD_SEND_TABLE (R84). -/
def execEpdSendTable (id : Byte) (s : State) : Host.Outcome State Fault Refusal :=
  .next (runCommand 0x10#8 (epdSendTable id) s)

/-- EPD_POWER_UP_IF_NEEDED (R85). -/
def execEpdPowerUpIfNeeded (s : State) : Host.Outcome State Fault Refusal :=
  .next (runCommand 0x11#8 epdPowerUpIfNeeded s)

/-- EPD_SHUTDOWN (R86). -/
def execEpdShutdown (s : State) : Host.Outcome State Fault Refusal :=
  .next (runCommand 0x12#8 epdShutdown s)

/-- EPD_START_TRANSFER (R87). -/
def execEpdStartTransfer (isAccent : Bool) (s : State) : Host.Outcome State Fault Refusal :=
  .next (runCommand 0x13#8 (startTransfer (.startTransfer isAccent) isAccent) s)

/-- EPD_SEND_BYTE (R88). -/
def execEpdSendByte (b : Byte) (s : State) : Host.Outcome State Fault Refusal :=
  .next (runCommand 0x14#8 (epdSendByte b) s)

/-- EPD_REFRESH_AND_SLEEP (R89). -/
def execEpdRefreshAndSleep (s : State) : Host.Outcome State Fault Refusal :=
  .next (runCommand 0x15#8 (refreshAndSleep .command) s)

end Sys2Proof.Machine
end

