-- ==== Sys2Proof/Machine/DrawClient.lean ====
section
/-! DEFINITION. The draw client (R90 to R103): the seven compositing primitives, the streaming of a chunk, and
the two whole draws with the callback's nested commands. `atLine op n` stands before line `n`. -/

namespace Sys2Proof.Machine

/-! ### The draw context -/

/-- `DrawCtxReset()` (R92). Its last line makes every scratch cell UNSET (R39). -/
def drawCtxReset : M Unit := do
  let s ← get
  tick
  setDraw fun d => { d with curX := some 0#16, curY := some 0#16 }
  tick
  setDraw fun d =>
    { d with winX0 := some 0#16, winX1 := some (toU16 s.cfg.screenW), winY0 := some 0#16,
             winY1 := some (toU16 s.cfg.screenH) }
  tick
  setDraw fun d => { d with winDrawY := none, winOutside := none, bufIdx := none }
  tick
  setDraw fun d =>
    { d with color := some .mono, passPlane := some .mono, chunkIdx := some 0, chunkStartY := some 0#16 }
  tick
  setDraw fun d => { d with fontSize := some 1#8, direction := some .horizontal, printing := false }
  tick
  setDraw fun d => { d with flashPtr := none }
  tick
  setDraw fun d => { d with scratch := [] }

/-- `Bias()` (R96). -/
def bias : M Nat := do
  let s ← get
  if s.cfg.packedPlanes = true then do
    let c ← readReg 41 s.draw.color
    pure (if c = .accent then s.cfg.planeBias else 0)
  else pure 0

/-- `OrPixel(x, y)` (R96). -/
def orPixel (x y : Nat) : M Unit := do
  tick
  let s ← get
  let c ← readReg 41 s.draw.color
  let pass ← readReg 42 s.draw.passPlane
  if c ≠ pass then pure ()
  else do
    let x0 ← readReg 39 s.draw.winX0
    let x1 ← readReg 39 s.draw.winX1
    if s.cfg.screenW ≤ x ∨ x < x0.toNat ∨ x1.toNat ≤ x then pure ()
    else do
      let top ← readReg 44 s.draw.chunkStartY
      let y0 ← readReg 39 s.draw.winY0
      let y1 ← readReg 39 s.draw.winY1
      if y < top.toNat ∨ top.toNat + s.cfg.linesPerChunk ≤ y ∨ y < y0.toNat ∨ y1.toNat ≤ y then pure ()
      else do
        let shift ← bias
        let o := x / 8 + (y - top.toNat) * s.cfg.bytesPerLine + shift
        if s.cfg.scratchSize ≤ o then raise (.scratchOverflow o)
        else do
          let b ← scratchRead o
          scratchWrite o (b ||| pixelMask x)

/-- `SetWindowY(start, height)` (R98 lines 2 to 7), `point n` standing before line `n`: whether the window is
outside the chunk is its answer. -/
def setWindowY (point : Nat → M Unit) (start height : Nat) : M Bool := do
  point 2
  setDraw fun d =>
    { d with winY0 := some (toU16 start), winY1 := some (toU16 (start + height)), curY := some (toU16 start) }
  point 3
  let s ← get
  let top ← readReg 44 s.draw.chunkStartY
  let out := windowOutside s.cfg start height top.toNat
  point 4
  setDraw fun d => { d with winOutside := some out }
  setRes fun r => { r with outside := some out }
  point 5
  if out = false then do
    let drawY := max start top.toNat
    point 6
    setDraw fun d => { d with winDrawY := some (toU16 drawY) }
    point 7
    let t ← get
    let x ← readReg 38 t.draw.curX
    let shift ← bias
    setDraw fun d =>
      { d with bufIdx := some (x.toNat / 8 + (drawY - top.toNat) * t.cfg.bytesPerLine + shift) }
  else pure ()
  pure out

/-- `winX0 <- x ; winX1 <- x + w` (R97, R99, R101, R103). -/
def setWinX (x w : Nat) : M Unit :=
  setDraw fun d => { d with winX0 := some (toU16 x), winX1 := some (toU16 (x + w)) }

/-- `curX <- x`. -/
def setCurX (x : Nat) : M Unit := setDraw fun d => { d with curX := some (toU16 x) }

/-- Line 1 of every compositing primitive (R45): the word is the command's. -/
def inDraw (i : Instr) (body : M Status) : M Status := do
  atLine i.opcode 1
  let s ← get
  if s.draw.drawing = false then refuse (.notInDraw (encode i)) else body

/-! ### The compositing primitives -/

/-- CLIENT_SET_WINDOW_X (R97). -/
def clientSetWindowX (start width : BitVec 12) : M Status :=
  inDraw (.clientSetWindowX start width) do
    atLine 0x22#8 2
    setWinX start.toNat width.toNat
    setCurX start.toNat
    atLine 0x22#8 3
    pure .ok

/-- CLIENT_SET_WINDOW_Y (R98). -/
def clientSetWindowY (start height : BitVec 12) : M Status :=
  inDraw (.clientSetWindowY start height) do
    let _ ← setWindowY (atLine 0x23#8) start.toNat height.toNat
    atLine 0x23#8 8
    pure .ok

/-- One pixel of a bitmap row (R99 line 11), `OrPixel`'s points among it. -/
def bitmapPixel (a x y rb r k : Nat) : M Unit := do
  atLine 0x24#8 11
  let b ← hostRead (a + 9 + r * rb + k / 8)
  if rowBit b k = true then orPixel (x + k) (y + r) else pure ()

/-- One row of a bitmap (R99 lines 10 and 11). -/
def bitmapRow (a x y w rb r : Nat) : M Unit :=
  forLine (atLine 0x24#8 10) (bitmapPixel a x y rb r) (List.range w)

/-- The rows of a bitmap that lie in the chunk (R99 line 9). -/
def rowsInChunk (p : Params) (y h top : Nat) : List Nat :=
  (List.range h).filter fun r => decide (top ≤ y + r ∧ y + r < top + p.linesPerChunk)

/-- CLIENT_LOAD_RAW_BITMAP's rows (R99 lines 8 and 9). -/
def bitmapRows (a x y w h : Nat) : M Unit := do
  atLine 0x24#8 8
  let s ← get
  let top ← readReg 44 s.draw.chunkStartY
  forLine (atLine 0x24#8 9) (bitmapRow a x y w ((w + 7) / 8)) (rowsInChunk s.cfg y h top.toNat)

/-- CLIENT_LOAD_RAW_BITMAP (R99). -/
def clientLoadRawBitmap (a : U16) : M Status :=
  inDraw (.clientLoadRawBitmap a) do
    atLine 0x24#8 2
    let x ← hostU16 a.toNat
    let y ← hostU16 (a.toNat + 2)
    let col ← hostRead (a.toNat + 4)
    let w ← hostU16 (a.toNat + 5)
    let h ← hostU16 (a.toNat + 7)
    atLine 0x24#8 3
    match planeOfByte col with
    | none => refuse (.reservedOperand (encode (.clientLoadRawBitmap a)))
    | some c => do
      atLine 0x24#8 4
      setDraw fun d => { d with color := some c }
      atLine 0x24#8 5
      setWinX x w
      setCurX x
      atLine 0x24#8 6
      let out ← setWindowY (fun _ => tick) y h
      atLine 0x24#8 7
      if out = true then pure .ok
      else do
        bitmapRows a.toNat x y w h
        atLine 0x24#8 12
        pure .ok

/-- CLIENT_PRINT_BEGIN (R100). -/
def clientPrintBegin (a : U16) : M Status :=
  inDraw (.clientPrintBegin a) do
    atLine 0x25#8 2
    let x ← hostU16 a.toNat
    let y ← hostU16 (a.toNat + 2)
    let dir ← hostRead (a.toNat + 4)
    let size ← hostRead (a.toNat + 5)
    let col ← hostRead (a.toNat + 6)
    atLine 0x25#8 3
    match directionOfByte dir with
    | none => refuse (.reservedOperand (encode (.clientPrintBegin a)))
    | some dv =>
      match planeOfByte col with
      | none => refuse (.reservedOperand (encode (.clientPrintBegin a)))
      | some c => do
        atLine 0x25#8 4
        setDraw fun d =>
          { d with curX := some (toU16 x), curY := some (toU16 y), direction := some dv,
                   fontSize := some size, color := some c }
        atLine 0x25#8 5
        setDraw fun d => { d with printing := true }
        atLine 0x25#8 6
        pure .ok

/-- The pixels of a glyph (R101 lines 7 and 12), row by row, each placed by `place`. -/
def glyphPixels (g : Glyph) (place : Nat → Nat → M Unit) : M Unit :=
  forEach (fun r => forEach (fun k => if glyphBit g r k = true then place r k else pure ()) (List.range 10))
    (List.range 16)

/-- CLIENT_WRITE_CHAR, upright (R101 lines 5 to 8; the point at line 5's call: log entry 29). -/
def writeUpright (g : Glyph) (x y : Nat) : M Unit := do
  atLine 0x26#8 5
  setWinX x 10
  let out ← setWindowY (fun _ => tick) y 16
  atLine 0x26#8 6
  if out = false then do
    atLine 0x26#8 7
    glyphPixels g fun r k => orPixel (x + k) (y + r)
  else pure ()
  atLine 0x26#8 8
  setCurX (x + 10)

/-- CLIENT_WRITE_CHAR, turned 90° clockwise (R101 lines 10 to 13; the point at line 10's call: log entry 29). -/
def writeTurned (g : Glyph) (x y : Nat) : M Unit := do
  atLine 0x26#8 10
  setWinX x 16
  let out ← setWindowY (fun _ => tick) y 10
  atLine 0x26#8 11
  if out = false then do
    atLine 0x26#8 12
    glyphPixels g fun r k => orPixel (x + 15 - r) (y + k)
  else pure ()
  atLine 0x26#8 13
  setDraw fun d => { d with curY := some (toU16 (y + 10)) }

/-- CLIENT_WRITE_CHAR (R101). -/
def clientWriteChar (ch : Byte) : M Status :=
  inDraw (.clientWriteChar ch) do
    atLine 0x26#8 2
    let s ← get
    if s.draw.printing = false then refuse .notPrinting
    else do
      atLine 0x26#8 3
      let size ← readReg 45 s.draw.fontSize
      let dir ← readReg 45 s.draw.direction
      let x ← readReg 38 s.draw.curX
      let y ← readReg 38 s.draw.curY
      atLine 0x26#8 4
      match dir with
      | .horizontal => writeUpright (glyph s.cfg size ch) x.toNat y.toNat
      | .vertical => writeTurned (glyph s.cfg size ch) x.toNat y.toNat
      atLine 0x26#8 14
      pure .ok

/-- CLIENT_PRINT_END (R102). -/
def clientPrintEnd : M Status :=
  inDraw .clientPrintEnd do
    atLine 0x27#8 2
    setDraw fun d => { d with printing := false }
    atLine 0x27#8 3
    pure .ok

/-- The module columns of a barcode (R103 lines 8 and 9), the first at column `x`. -/
def barcodeColumns (x y height : Nat) : List Bool → M Unit
  | [] => atLine 0x28#8 8
  | bar :: bars => do
    atLine 0x28#8 8
    atLine 0x28#8 9
    if bar = true then forEach (fun r => orPixel x (y + r)) (List.range height) else pure ()
    barcodeColumns (x + 1) y height bars

/-- CLIENT_PRINT_BARCODE (R103). -/
def clientPrintBarcode (a : U16) : M Status :=
  inDraw (.clientPrintBarcode a) do
    atLine 0x28#8 2
    let s ← get
    let x ← hostU16 a.toNat
    let y ← hostU16 (a.toNat + 2)
    let n ← hostRead (a.toNat + 4)
    let str ← hostReadBytes (a.toNat + 5) n.toNat
    atLine 0x28#8 3
    let bars := barcodeBars s.cfg str
    atLine 0x28#8 4
    setDraw fun d => { d with color := some .mono }
    atLine 0x28#8 5
    setWinX x bars.length
    setCurX x
    atLine 0x28#8 6
    let out ← setWindowY (fun _ => tick) y s.cfg.barcodeHeight
    atLine 0x28#8 7
    if out = true then pure .ok
    else do
      barcodeColumns x y s.cfg.barcodeHeight bars
      atLine 0x28#8 10
      pure .ok

/-! ### Nested commands -/

/-- `Issue(w)` of a callback's word once it is decoded (R91, R95 lines 12 and 13): only the seven
compositing primitives may stand there. -/
def issuePrimitive (w : Word) (i : Instr) : M Unit :=
  match i with
  | .clientSetWindowX start width => issue 0x22#8 (clientSetWindowX start width)
  | .clientSetWindowY start height => issue 0x23#8 (clientSetWindowY start height)
  | .clientLoadRawBitmap a => issue 0x24#8 (clientLoadRawBitmap a)
  | .clientPrintBegin a => issue 0x25#8 (clientPrintBegin a)
  | .clientWriteChar ch => issue 0x26#8 (clientWriteChar ch)
  | .clientPrintEnd => issue 0x27#8 clientPrintEnd
  | .clientPrintBarcode a => issue 0x28#8 (clientPrintBarcode a)
  | .radioInit | .radioSetChannel _ | .radioSetTxPower _ | .radioTransmit _ | .radioEnableRx _
  | .radioReceive _ | .radioFlush | .radioRxAckGetLast | .radioSetFreqTest _ | .platformSetRadioEnabled _
  | .epdSendTable _ | .epdPowerUpIfNeeded | .epdShutdown | .epdStartTransfer _ | .epdSendByte _
  | .epdRefreshAndSleep | .clientDrawImage _ | .clientDrawScreen _ => refuse (.badCallback w)

/-- The refusal of a word the decoder refuses (R44, R107). -/
def refusalOfDecode : DecodeError → Refusal
  | .reservedOpcode w => .reservedOpcode w
  | .reservedBits w => .reservedBits w
  | .reservedOperand w => .reservedOperand w

/-- A callback's word: its opcode must be a compositing primitive's, and then it is issued (R95 lines 12, 13). -/
def callbackWord (w : Word) : M Unit := do
  atLine 0x21#8 12
  if (opcodeOf w).toNat < 0x22 ∨ 0x28 < (opcodeOf w).toNat then refuse (.badCallback w)
  else do
    atLine 0x21#8 13
    match decode w with
    | .error e => refuse (refusalOfDecode e)
    | .ok i => issuePrimitive w i

/-! ### Streaming -/

/-- `Issue(EPD_SEND_BYTE o)` for each byte one scratch byte is repacked to (R93). -/
def streamByte (i : Nat) : M Unit := do
  tick
  let s ← get
  let plane ← readReg 42 s.draw.passPlane
  let b ← scratchRead i
  forEach (fun o => issue 0x14#8 (epdSendByte o)) (repack s.cfg plane b)

/-- `StreamChunk()` (R93). -/
def streamChunk : M Unit := do
  let s ← get
  forEach streamByte (List.range (chunkBytes s.cfg))

/-- The chunk becomes zero bytes (R94 line 20, R95 line 8). -/
def zeroChunk : M Unit := do
  let s ← get
  forEach (fun i => scratchWrite i 0#8) (List.range (chunkBytes s.cfg))

/-- The chunk is read from FLASH at the running pointer, which moves on modulo 2^24 (R94 lines 16 to 18). -/
def loadChunk : M Unit := do
  let s ← get
  let ptr ← readReg 47 s.draw.flashPtr
  emit (.flashRead ptr (chunkBytes s.cfg))
  atLine 0x20#8 17
  forEach (fun i => scratchWrite i (flashRead s.env (ptr + BitVec.ofNat 24 i))) (List.range (chunkBytes s.cfg))
  atLine 0x20#8 18
  setDraw fun d => { d with flashPtr := some (ptr + BitVec.ofNat 24 (chunkBytes s.cfg)) }

/-- `chunkIdx <- c ; chunkStartY <- c × P_LINES_PER_CHUNK` (R94 line 14, R95 line 7). -/
def enterChunk (c : Nat) : M Unit := do
  let s ← get
  setDraw fun d => { d with chunkIdx := some c, chunkStartY := some (toU16 (c * s.cfg.linesPerChunk)) }

/-- `isAccent` of a pass's plane. -/
def isAccent : Plane → Bool
  | .mono => false
  | .accent => true

/-! ### CLIENT_DRAW_IMAGE -/

/-- A format with two planes or one holds the plane (R94 line 7). -/
def hasPlane (twoPlanes : Bool) (p : Plane) : Bool := twoPlanes || !isAccent p

/-- One chunk of an image pass (R94 lines 14 to 21). -/
def imageChunk (twoPlanes : Bool) (p : Plane) (c : Nat) : M Unit := do
  atLine 0x20#8 14
  enterChunk c
  atLine 0x20#8 15
  if hasPlane twoPlanes p = true then do
    atLine 0x20#8 16
    loadChunk
  else do
    atLine 0x20#8 20
    zeroChunk
  atLine 0x20#8 21
  streamChunk

/-- The chunks of an image pass (R94 line 13). -/
def imageChunks (twoPlanes : Bool) (p : Plane) : M Unit := do
  let s ← get
  forLine (atLine 0x20#8 13) (imageChunk twoPlanes p) (List.range s.cfg.numChunks)

/-- A pass of an image, if it runs (R94 lines 9 to 21). -/
def imagePass (twoPlanes : Bool) (p : Plane) : M Unit := do
  atLine 0x20#8 9
  atLine 0x20#8 10
  let s ← get
  if hasPlane twoPlanes p = false ∧ s.cfg.alwaysBothPasses = false then pure ()
  else do
    atLine 0x20#8 11
    setDraw fun d => { d with passPlane := some p }
    atLine 0x20#8 12
    issue 0x13#8 (startTransfer (.drawImage twoPlanes p) (isAccent p))
    imageChunks twoPlanes p

/-- After the last pass: line 9, `Issue(EPD_REFRESH_AND_SLEEP)` and the return (R94 lines 9, 22 and 23). -/
def imageEnd : M Status := do
  atLine 0x20#8 9
  atLine 0x20#8 22
  issue 0x15#8 (refreshAndSleep .drawImage)
  atLine 0x20#8 23
  pure .ok

/-- An image draw after the transfer start of pass `p` (R94 line 13 on). -/
def imageAfterStart (twoPlanes : Bool) (p : Plane) : M Status := do
  imageChunks twoPlanes p
  match p with
  | .mono => imagePass twoPlanes .accent
  | .accent => pure ()
  imageEnd

/-- CLIENT_DRAW_IMAGE of a supported tag (R94 lines 6 to 23). -/
def drawSupported (addr : U24) (twoPlanes : Bool) : M Status := do
  atLine 0x20#8 6
  drawCtxReset
  atLine 0x20#8 7
  atLine 0x20#8 8
  setDraw fun d => { d with flashPtr := some (addr + 1#24) }
  imagePass twoPlanes .mono
  imagePass twoPlanes .accent
  imageEnd

/-- CLIENT_DRAW_IMAGE (R94). -/
def clientDrawImage (addr : U24) : M Status := do
  atLine 0x20#8 1
  let s ← get
  if s.cfg.packedPlanes = true then refuse .unmodelledConfig
  else do
    atLine 0x20#8 2
    emit (.flashRead addr 1)
    let tag := flashRead s.env addr
    atLine 0x20#8 3
    if tag ≠ s.cfg.type1bpp ∧ tag ≠ s.cfg.type2bpp then do
      atLine 0x20#8 4
      emit (.log .unsupportedImage [tag])
      atLine 0x20#8 5
      pure .unsupportedImage
    else drawSupported addr (decide (tag = s.cfg.type2bpp))

/-! ### CLIENT_DRAW_SCREEN -/

/-- One scanline of a chunk: the callback's words, in order (R95 lines 10 to 14). -/
def screenLine (cb : Byte) (p : Plane) (c l : Nat) : M Unit := do
  atLine 0x21#8 10
  setDraw fun d => { d with drawing := true }
  let s ← get
  let top ← readReg 44 s.draw.chunkStartY
  forLine (atLine 0x21#8 11) callbackWord (callbackWords s.cfg cb (top.toNat + l) c p)
  atLine 0x21#8 14
  setDraw fun d => { d with drawing := false }

/-- One chunk of a screen pass (R95 lines 7 to 15). -/
def screenChunk (cb : Byte) (p : Plane) (c : Nat) : M Unit := do
  atLine 0x21#8 7
  enterChunk c
  atLine 0x21#8 8
  zeroChunk
  let s ← get
  forLine (atLine 0x21#8 9) (screenLine cb p c) (List.range s.cfg.linesPerChunk)
  atLine 0x21#8 15
  streamChunk

/-- The chunks of a screen pass (R95 line 6). -/
def screenChunks (cb : Byte) (p : Plane) : M Unit := do
  let s ← get
  forLine (atLine 0x21#8 6) (screenChunk cb p) (List.range s.cfg.numChunks)

/-- A pass of a screen (R95 lines 3 to 15). -/
def screenPass (cb : Byte) (p : Plane) : M Unit := do
  atLine 0x21#8 3
  atLine 0x21#8 4
  setDraw fun d => { d with passPlane := some p }
  atLine 0x21#8 5
  issue 0x13#8 (startTransfer (.drawScreen cb p) (isAccent p))
  screenChunks cb p

/-- After the last pass: line 3, `Issue(EPD_REFRESH_AND_SLEEP)` and the return (R95 lines 3, 16 and 17). -/
def screenEnd : M Status := do
  atLine 0x21#8 3
  atLine 0x21#8 16
  issue 0x15#8 (refreshAndSleep .drawScreen)
  atLine 0x21#8 17
  pure .ok

/-- A screen draw after the transfer start of pass `p` (R95 line 6 on). -/
def screenAfterStart (cb : Byte) (p : Plane) : M Status := do
  screenChunks cb p
  match p with
  | .mono => screenPass cb .accent
  | .accent => pure ()
  screenEnd

/-- CLIENT_DRAW_SCREEN (R95). -/
def clientDrawScreen (cb : Byte) : M Status := do
  atLine 0x21#8 1
  let s ← get
  if s.cfg.packedPlanes = true then refuse .unmodelledConfig
  else do
    atLine 0x21#8 2
    drawCtxReset
    screenPass cb .mono
    screenPass cb .accent
    screenEnd

/-! ### The meanings -/

/-- CLIENT_DRAW_IMAGE (R94). -/
def execClientDrawImage (addr : U24) (s : State) : Host.Outcome State Fault Refusal :=
  .next (runCommand 0x20#8 (clientDrawImage addr) s)

/-- CLIENT_DRAW_SCREEN (R95). -/
def execClientDrawScreen (cb : Byte) (s : State) : Host.Outcome State Fault Refusal :=
  .next (runCommand 0x21#8 (clientDrawScreen cb) s)

/-- CLIENT_SET_WINDOW_X (R97). -/
def execClientSetWindowX (start width : BitVec 12) (s : State) : Host.Outcome State Fault Refusal :=
  .next (runCommand 0x22#8 (clientSetWindowX start width) s)

/-- CLIENT_SET_WINDOW_Y (R98). -/
def execClientSetWindowY (start height : BitVec 12) (s : State) : Host.Outcome State Fault Refusal :=
  .next (runCommand 0x23#8 (clientSetWindowY start height) s)

/-- CLIENT_LOAD_RAW_BITMAP (R99). -/
def execClientLoadRawBitmap (a : U16) (s : State) : Host.Outcome State Fault Refusal :=
  .next (runCommand 0x24#8 (clientLoadRawBitmap a) s)

/-- CLIENT_PRINT_BEGIN (R100). -/
def execClientPrintBegin (a : U16) (s : State) : Host.Outcome State Fault Refusal :=
  .next (runCommand 0x25#8 (clientPrintBegin a) s)

/-- CLIENT_WRITE_CHAR (R101). -/
def execClientWriteChar (ch : Byte) (s : State) : Host.Outcome State Fault Refusal :=
  .next (runCommand 0x26#8 (clientWriteChar ch) s)

/-- CLIENT_PRINT_END (R102). -/
def execClientPrintEnd (s : State) : Host.Outcome State Fault Refusal :=
  .next (runCommand 0x27#8 clientPrintEnd s)

/-- CLIENT_PRINT_BARCODE (R103). -/
def execClientPrintBarcode (a : U16) (s : State) : Host.Outcome State Fault Refusal :=
  .next (runCommand 0x28#8 (clientPrintBarcode a) s)

end Sys2Proof.Machine
end

