-- ==== Sys2Proof/Machine/HostTurn.lean ====
section
/-! DEFINITION. Whose turn a step is: the model's start (R123), an agent's step that the schedule puts while
the host is idle (R7, R111), the host going on at a hold (R114), or the host handing over what comes next (R6). -/

namespace Sys2Proof.Machine

/-- What a turn is: a state that is already reached, or a command to execute from a state. -/
inductive Turn where
  | settled (s : State)
  | run (i : Instr) (s : State)
  deriving DecidableEq, Repr

/-- The model's start: a parameter record that fails its checks is refused (R2, R123). -/
def modelStart (s : State) : State :=
  if paramsOk s.cfg = true then s.withStarted else s.withRefusal .badConfig

/-- Past the schedule's end the fair agents are taken (R113). -/
def fairWhenUnscheduled : M Unit := do
  let s ← get
  match s.env.sched with
  | [] => fairAgents
  | _ :: _ => pure ()

/-- What the host does next at a busy wait of power-up, from the wait on (R85, R87, R94, R95). -/
def goOnPowering (w : BusyWait) (caller : PowerCaller) (s : State) : State :=
  match caller with
  | .command =>
    resumeCommand 0x11#8 (do
      fairWhenUnscheduled
      powerUpFrom w caller
      pure .ok) s
  | .startTransfer a =>
    resumeCommand 0x13#8 (do
      fairWhenUnscheduled
      powerUpFrom w caller
      startTransferTail a) s
  | .drawImage twoPlanes p =>
    resumeCommand 0x20#8 (do
      fairWhenUnscheduled
      command 0x13#8 (do
        powerUpFrom w caller
        startTransferTail (isAccent p))
      imageAfterStart twoPlanes p) s
  | .drawScreen cb p =>
    resumeCommand 0x21#8 (do
      fairWhenUnscheduled
      command 0x13#8 (do
        powerUpFrom w caller
        startTransferTail (isAccent p))
      screenAfterStart cb p) s

/-- What the host does next in the refresh loop (R89, R94, R95). -/
def goOnRefreshing (m : U16) (caller : RefreshCaller) (s : State) : State :=
  match caller with
  | .command =>
    resumeCommand 0x15#8 (do
      fairWhenUnscheduled
      refreshFrom caller m) s
  | .drawImage =>
    resumeCommand 0x20#8 (do
      fairWhenUnscheduled
      command 0x15#8 (refreshFrom caller m)
      atLine 0x20#8 23
      pure .ok) s
  | .drawScreen =>
    resumeCommand 0x21#8 (do
      fairWhenUnscheduled
      command 0x15#8 (refreshFrom caller m)
      atLine 0x21#8 17
      pure .ok) s

/-- The host goes on at the hold it stands at (R9, R114). No step ends with the host at another line. -/
def goOn (s : State) : State :=
  match s.hostPos with
  | .idle => s
  | .line _ _ => s
  | .txPoll polls =>
    resumeCommand 0x04#8 (do
      fairWhenUnscheduled
      transmitLoop polls) s
  | .busyWait w caller => goOnPowering w caller s
  | .refreshPoll m caller => goOnRefreshing m caller s

/-- The host's turn while it is idle: a command word is decoded and executed, or refused with no other
effect (R40, R44); a store of the host's program is made (R22, R23); with nothing handed over the block
waits (R123). -/
def hostTurn (s : State) : Turn :=
  match s.hostQueue with
  | [] => .settled (settle (fairWhenUnscheduled.run s))
  | .store a b :: q => .settled (settle ((hostWrite a.toNat b).run (s.withQueue q)))
  | .command w :: q =>
    match decode w with
    | .ok i => .run i (s.withQueue q)
    | .error e => .settled ((s.withQueue q).withRefusal (refusalOfDecode e))

/-- The turn of a block that no mark has stopped. -/
def nextTurn (s : State) : Turn :=
  if s.started = false then .settled (modelStart s)
  else
    match s.hostPos with
    | .idle =>
      match s.env.sched with
      | [] => hostTurn s
      | [] :: rest => hostTurn (s.onEnv fun v => { v with sched := rest })
      | (m :: ms) :: rest =>
        .settled (settle ((takeMove m).run (s.onEnv fun v => { v with sched := ms :: rest })))
    | .line _ _ => .settled (goOn s)
    | .txPoll _ => .settled (goOn s)
    | .busyWait _ _ => .settled (goOn s)
    | .refreshPoll _ _ => .settled (goOn s)

/-- The word `w` is what the host hands over next, to a block that runs and whose next turn is the host's. -/
def placeWord (s : State) (w : Word) : State :=
  { s with
    started := true, hostPos := .idle, hostQueue := .command w :: s.hostQueue,
    env := { s.env with sched := [] :: s.env.sched } }

end Sys2Proof.Machine
end

