-- ==== Sys2Proof/Machine/Dispatch.lean ====
section
/-! DEFINITION. Each command's meaning, one arm for each constructor of `Instr`. -/

namespace Sys2Proof.Machine

def exec (i : Instr) (s : State) : Host.Outcome State Fault Refusal :=
  match i with
  | .radioInit => Sys2Proof.Machine.execRadioInit s
  | .radioSetChannel ch => Sys2Proof.Machine.execRadioSetChannel ch s
  | .radioSetTxPower dBm => Sys2Proof.Machine.execRadioSetTxPower dBm s
  | .radioTransmit buf => Sys2Proof.Machine.execRadioTransmit buf s
  | .radioEnableRx on => Sys2Proof.Machine.execRadioEnableRx on s
  | .radioReceive dst => Sys2Proof.Machine.execRadioReceive dst s
  | .radioFlush => Sys2Proof.Machine.execRadioFlush s
  | .radioRxAckGetLast => Sys2Proof.Machine.execRadioRxAckGetLast s
  | .radioSetFreqTest on => Sys2Proof.Machine.execRadioSetFreqTest on s
  | .platformSetRadioEnabled on => Sys2Proof.Machine.execPlatformSetRadioEnabled on s
  | .epdSendTable id => Sys2Proof.Machine.execEpdSendTable id s
  | .epdPowerUpIfNeeded => Sys2Proof.Machine.execEpdPowerUpIfNeeded s
  | .epdShutdown => Sys2Proof.Machine.execEpdShutdown s
  | .epdStartTransfer accent => Sys2Proof.Machine.execEpdStartTransfer accent s
  | .epdSendByte b => Sys2Proof.Machine.execEpdSendByte b s
  | .epdRefreshAndSleep => Sys2Proof.Machine.execEpdRefreshAndSleep s
  | .clientDrawImage addr => Sys2Proof.Machine.execClientDrawImage addr s
  | .clientDrawScreen cb => Sys2Proof.Machine.execClientDrawScreen cb s
  | .clientSetWindowX start width => Sys2Proof.Machine.execClientSetWindowX start width s
  | .clientSetWindowY start height => Sys2Proof.Machine.execClientSetWindowY start height s
  | .clientLoadRawBitmap a => Sys2Proof.Machine.execClientLoadRawBitmap a s
  | .clientPrintBegin a => Sys2Proof.Machine.execClientPrintBegin a s
  | .clientWriteChar ch => Sys2Proof.Machine.execClientWriteChar ch s
  | .clientPrintEnd => Sys2Proof.Machine.execClientPrintEnd s
  | .clientPrintBarcode a => Sys2Proof.Machine.execClientPrintBarcode a s

end Sys2Proof.Machine
end

