-- ==== Sys2Proof/Machine/Step.lean ====
section
/-! DEFINITION. One step of the block: a marked block answers its mark (R106, R107), and otherwise the turn
that is next is taken. -/

namespace Sys2Proof.Machine

/-- One step. -/
def step (s : State) : Host.Outcome State Fault Refusal :=
  match s.faultMark with
  | some f => .fault f
  | none =>
    match s.refuseMark with
    | some x => .refused x
    | none =>
      match nextTurn s with
      | .settled s' => .next s'
      | .run i s' => exec i s'

/-- The instruction of `nbits` bits `w`, numbered as the opcode table numbers them, as the command word the
host hands over next, to a block that runs and whose next turn is the host's. -/
def State.withFetchWord (s : State) (nbits w : Nat) : State := placeWord s (BitVec.ofNat 32 (w % 2 ^ nbits))

end Sys2Proof.Machine
end

