-- ==== Sys2Proof/Safety.lean ====
section
/-! DEFINITION. The terms the claims are stated in: the states the claims start from, what a command leaves when
no other agent is scheduled among its lines, and the invariants that every step keeps. -/

namespace Sys2Proof.Machine

/-! ### Where a claim starts -/

/-- No step of another agent is scheduled: the host's lines run one after the other (R6, R111). -/
def State.Quiet (s : State) : Prop := s.env.sched = []

/-- No fault and no refusal has ended the run (R106, R107). -/
def State.Unmarked (s : State) : Prop := s.faultMark = none ∧ s.refuseMark = none

/-- The block runs, no mark has ended the run, no other agent is scheduled, and neither an interrupt nor a byte in the
shifter is to be taken: the next step is the host's, at the hold it stands at (R113, R114). -/
def State.HeldQuiet (s : State) : Prop :=
  s.Unmarked ∧ s.started = true ∧ s.Quiet ∧ s.irq.rxDonePending = false ∧ s.epd.spiBusy = false

/-- The byte in the shifter can leave: the bus is connected and the byte is known (R81). -/
def State.ShifterReady (s : State) : Prop :=
  s.epd.spiBusy = true → s.epd.spiConnected = true ∧ s.epd.spiHold ≠ none

/-- The bytes `bs` stand in HOST from address `a` on, all inside the space (R22, R23). -/
def State.HostHolds (s : State) (a : Nat) (bs : List Byte) : Prop :=
  a + bs.length ≤ s.cfg.hostMemSize ∧ ∀ i, i < bs.length → s.hostMem.read (a + i) = bs[i]?

/-- The bytes `bs` stand in ring slot `r` from its first cell on, all inside the slot (R22, R50). -/
def State.SlotHolds (s : State) (r : Fin 3) (bs : List Byte) : Prop :=
  bs.length ≤ slotSize s.cfg ∧ ∀ i, i < bs.length → s.ring.cells.read (ringAddr r i) = bs[i]?

/-- The RX DMA is armed into slot `r` (R30). -/
def State.ArmedInto (s : State) (r : Fin 3) : Prop := s.ring.writeIdx = some r ∧ s.arb.rxArmed = true

/-- The parameters lie in the ranges R1 gives them, `P_REPACK`'s lists having `P_NATIVE_BPP` bytes. -/
def InR1Ranges (p : Params) : Prop :=
  (1 ≤ p.maxPayload ∧ p.maxPayload ≤ 252) ∧ p.paCode.length = 21 ∧ (∀ n, p.txTimeout = some n → 1 ≤ n) ∧
    (1 ≤ p.hostMemSize ∧ p.hostMemSize ≤ 65536) ∧ (p.numCtrl = 1 ∨ p.numCtrl = 2) ∧
    (1 ≤ p.screenW ∧ p.screenW ≤ 4095) ∧ (1 ≤ p.screenH ∧ p.screenH ≤ 4095) ∧
    (p.nativeBpp = 1 ∨ p.nativeBpp = 2) ∧ (∀ e ∈ p.repack, e.2.length = p.nativeBpp) ∧ 1 ≤ p.barcodeHeight

/-- An RF table holds the sentinel address at an even offset (R2, R47). -/
def HoldsSentinel (p : Params) (t : List Byte) : Prop := ∃ k : Nat, t[2 * k]? = some p.rfSentinel

/-- A panel table is entries of a count of at least 1, a command byte and the data bytes the count gives, and then
a zero count (R2, R48). -/
def HoldsZeroCount (p : Params) (t : List Byte) : Prop :=
  ∃ (es : List (Byte × Byte × List Byte)) (rest : List Byte),
    (∀ e ∈ es, e.1 ≠ 0#8 ∧ e.2.2.length = dataBytes p.epdCountMode e.1.toNat) ∧
      t = es.flatMap (fun e => e.1 :: e.2.1 :: e.2.2) ++ 0#8 :: rest

/-- The checks of R2. -/
def MeetsR2 (p : Params) : Prop :=
  (p.lowFirst.toNat ≤ p.lowLast.toNat ∧ p.highFirst.toNat ≤ p.highLast.toNat) ∧
    ((p.lowLast.toNat - p.lowFirst.toNat) * 3 ≤ 255 ∧ (p.highLast.toNat - p.highFirst.toNat) * 12 ≤ 255) ∧
    (∀ t ∈ [p.tableLow, p.tableHigh, p.tableTest], HoldsSentinel p t) ∧
    (∀ t ∈ [p.tablePowerup, p.tableSetup, p.tablePowerdown, p.tableRefresh], HoldsZeroCount p t) ∧
    (p.bytesPerLine * p.linesPerChunk ≤ p.scratchSize ∧ p.numChunks * p.linesPerChunk = p.screenH ∧
      p.screenW ≤ p.bytesPerLine * 8) ∧
    (p.maxPayload + 3) * 3 ≤ 768

/-- Every cell of the chunk holds a value (R96). -/
def State.ChunkFilled (s : State) : Prop :=
  chunkBytes s.cfg ≤ s.cfg.scratchSize ∧ ∀ o, o < chunkBytes s.cfg → s.draw.scratch.read o ≠ none

end Sys2Proof.Machine

namespace Sys2Proof

/-! ### The commands by the checks they make -/

/-- The commands that the radio gate guards (R56). -/
def Instr.gated : Instr → Bool
  | .radioSetChannel _ | .radioSetTxPower _ | .radioTransmit _ | .radioEnableRx _ | .radioReceive _
  | .radioFlush | .radioRxAckGetLast | .radioSetFreqTest _ => true
  | .radioInit | .platformSetRadioEnabled _ | .epdSendTable _ | .epdPowerUpIfNeeded | .epdShutdown
  | .epdStartTransfer _ | .epdSendByte _ | .epdRefreshAndSleep | .clientDrawImage _ | .clientDrawScreen _
  | .clientSetWindowX _ _ | .clientSetWindowY _ _ | .clientLoadRawBitmap _ | .clientPrintBegin _
  | .clientWriteChar _ | .clientPrintEnd | .clientPrintBarcode _ => false

/-- The commands that test mode refuses (R57). -/
def Instr.refusedInTest : Instr → Bool
  | .radioSetChannel _ | .radioTransmit _ | .radioEnableRx _ | .radioReceive _ | .radioFlush
  | .radioRxAckGetLast => true
  | .radioSetTxPower _ | .radioSetFreqTest _ | .radioInit | .platformSetRadioEnabled _ | .epdSendTable _
  | .epdPowerUpIfNeeded | .epdShutdown | .epdStartTransfer _ | .epdSendByte _ | .epdRefreshAndSleep
  | .clientDrawImage _ | .clientDrawScreen _ | .clientSetWindowX _ _ | .clientSetWindowY _ _
  | .clientLoadRawBitmap _ | .clientPrintBegin _ | .clientWriteChar _ | .clientPrintEnd
  | .clientPrintBarcode _ => false

/-- The radio half's commands (R43). -/
def Instr.ofRadio (i : Instr) : Bool := decide (i.opcode.toNat < 0x10)

/-- The compositing primitives, which run only inside a draw-screen callback (R45). -/
def Instr.drawOnly (i : Instr) : Bool := decide (0x22 ≤ i.opcode.toNat)

/-- The bits of an opcode's operand field that its format marks `0` (R41, R43); `none` for an opcode that
the map does not list. -/
def zeroBits (op : Byte) : Option U24 :=
  match op.toNat with
  | 0x01 | 0x07 | 0x08 | 0x11 | 0x12 | 0x15 | 0x27 => some 0xFFFFFF#24
  | 0x05 | 0x09 | 0x0A | 0x13 => some 0xFFFFFE#24
  | 0x02 | 0x03 | 0x10 | 0x14 | 0x21 | 0x26 => some 0xFFFF00#24
  | 0x04 | 0x06 | 0x24 | 0x25 | 0x28 => some 0xFF0000#24
  | 0x20 | 0x22 | 0x23 => some 0x000000#24
  | _ => none

end Sys2Proof

namespace Sys2Proof.Machine

/-! ### How a command ends -/

/-- `return st` of a nested command: `res_status` and the RESULT event (R91, R104). -/
def State.nestedReturn (op : Byte) (st : Status) (s : State) : State :=
  { s with res := { s.res with status := some st }, trace := s.trace ++ [.result op st] }

/-- `return st` of the host's command: `res_status`, the RESULT event, and the host is idle (R9, R104). -/
def State.returned (op : Byte) (st : Status) (s : State) : State :=
  { s with res := { s.res with status := some st }, trace := s.trace ++ [.result op st], hostPos := .idle }

/-- `refuse X` of the host's command (R9, R107). -/
def State.refusedWith (x : Refusal) (s : State) : State := { s with refuseMark := some x, hostPos := .idle }

/-- `raise F` of the host's command (R9, R106). -/
def State.faultedWith (f : Fault) (s : State) : State := { s with faultMark := some f, hostPos := .idle }

/-! ### The radio half, with no other agent scheduled -/

/-- The entries of an RF table (R47). -/
def rfTable (p : Params) (t : List Byte) : List (Byte × Byte) := (rfEntries p.rfSentinel t).getD []

/-- An RF table's entries written in order: the events and the shadow registers (R58). -/
def State.rfApplied (es : List (Byte × Byte)) (s : State) : State :=
  { s with
    xreg := es.foldl (fun m e => m.write e.1.toNat e.2) s.xreg,
    trace := s.trace ++ es.map fun e => .busWrite e.1 e.2 }

/-- The condition of `RxStartIfNeeded()` with `n` slots free (R60). -/
def State.rxStarts (n : Nat) (s : State) : Bool :=
  s.arb.rxEnabled && decide (0 < n) && !s.arb.rxArmed && decide (s.arb.radioState ≠ .tx)

/-- `RxStartIfNeeded()` with `n` slots free and write slot `w` (R60). -/
def State.rxStarted (w : Fin 3) (n : Nat) (s : State) : State :=
  if s.rxStarts n = true then
    { s with
      arb := { s.arb with rxArmed := true, radioState := .rx },
      trace := s.trace ++ [.rxArm w, .strobe .srx] }
  else s

/-- `RxStopHw` that leaves the pending completion as `pending` (R61). -/
def State.rxStopped (pending : Bool) (s : State) : State :=
  { s with
    arb := { s.arb with
              rxArmed := false,
              radioState := if s.arb.radioState = .rx then .idle else s.arb.radioState },
    irq := { s.irq with rxDonePending := pending },
    trace := s.trace ++ [.strobe .sidle] }

/-! ### The display half, with no other agent scheduled -/

/-- The entries of a panel table (R48). -/
def panelTable (p : Params) (t : List Byte) : List (Byte × List Byte) := (panelEntries p.epdCountMode t).getD []

/-- The shifter idle: the byte in it has left (R80, R81). -/
def State.drained (s : State) : State :=
  match s.epd.spiBusy, s.epd.spiHold with
  | true, some (t, k, b) =>
    { s with epd := { s.epd with spiBusy := false }, trace := s.trace ++ [.panelByte t k b] }
  | _, _ => s

/-- `PanelSend(T, k, b)` (R80). -/
def State.byteHanded (t : CtrlSet) (k : ByteKind) (b : Byte) (s : State) : State :=
  { s.drained with epd := { s.drained.epd with spiHold := some (t, k, b), spiBusy := true } }

/-- Every chip select at a level, M first and then S (R82). -/
def State.selected (level : Bool) (s : State) : State :=
  { s with
    epd := { s.epd with
              pinCsM := level,
              pinCsS := if s.cfg.numCtrl = 2 then level else s.epd.pinCsS },
    trace := s.trace ++ (controllers s.cfg).map fun c => .pin (.cs c) level }

/-- `SendEntry(cmd, data)` (R82). -/
def State.entrySent (cmd : Byte) (data : List Byte) (s : State) : State :=
  let up := s.drained.selected s.cfg.csActive
  let sent := data.foldl (fun t b => t.byteHanded (allSet s.cfg) .data b) (up.byteHanded (allSet s.cfg) .cmd cmd)
  sent.drained.selected (!s.cfg.csActive)

/-- `SendTable` over a table's entries (R83). -/
def State.tableSent (es : List (Byte × List Byte)) (s : State) : State :=
  es.foldl (fun t e => t.entrySent e.1 e.2) s

/-- Power-up's lines 2 to 7: chip selects inactive, the rail, the bus, and reset released (R85). -/
def State.railUp (s : State) : State :=
  let off := s.selected (!s.cfg.csActive)
  { off with
    epd := { off.epd with
              pinPwr := !s.cfg.pwrOffLevel, spiConnected := true, pinLinesLow := false,
              pinRst := !s.cfg.rstActive },
    trace := off.trace ++
      ([.pin .pwr (!s.cfg.pwrOffLevel), .spiMux true, .sleep s.cfg.tSettle1,
        .pin .rst (!s.cfg.rstActive), .sleep s.cfg.tSettle2] : List Event) }

/-- Power-up's lines 9 and 10 (R85). -/
def State.powerOnSent (s : State) : State :=
  (s.tableSent (panelTable s.cfg s.cfg.tablePowerup)).entrySent s.cfg.cmdPowerOn []

/-- Power-up's lines 13 to 15 (R85). -/
def State.setupSent (s : State) : State :=
  let set := (s.tableSent (panelTable s.cfg s.cfg.tableSetup)).entrySent s.cfg.cmdVcom [s.cfg.vcomCal]
  { set with epd := { set.epd with epdPowered := true } }

/-- Power-up's lines 9 to 15, past busy waits that end at once (R85). -/
def State.programmed (s : State) : State := s.powerOnSent.setupSent

/-- Power-up from a busy wait on, past busy waits that end at once (R85). -/
def State.programmedFrom (w : BusyWait) (s : State) : State :=
  match w with
  | .line8 => s.programmed
  | .line11 => s.setupSent
  | .line12 => s.setupSent

/-- `PowerUpIfNeeded()` past busy waits that end at once (R85 lines 1 to 15). -/
def State.poweredUp (s : State) : State := if s.epd.epdPowered = true then s else s.railUp.programmed

/-- `Shutdown()` (R86 lines 1 to 9). -/
def State.shutDown (s : State) : State :=
  if s.epd.epdPowered = false then s
  else
    let sent := (s.tableSent (panelTable s.cfg s.cfg.tablePowerdown)).drained
    let low :=
      State.selected false
        { sent with
          epd := { sent.epd with spiConnected := false, pinLinesLow := true },
          trace := sent.trace ++ [.spiMux false] }
    { low with
      epd := { low.epd with
                pinRst := false, pinPwr := s.cfg.pwrOffLevel, epdPowered := false, streamIdx := 0 },
      trace := low.trace ++ [.pin .rst false, .pin .pwr s.cfg.pwrOffLevel] }

/-- `n` more free answers are taken (R20). -/
def State.drawn (n : Nat) (s : State) : State := { s with env := { s.env with draws := s.env.draws + n } }

/-- The level that `Busy()` reads next of a panel that is not live, past the given readings: free (R20). -/
def State.freeLevel (s : State) : Bool := Config.busyLevel s.env.draws

/-- Power-up from line 12 on over free levels: the wait at which the host stays, if any (R85, R114). -/
def State.freeFrom12 (s : State) : Option BusyWait × State :=
  if s.freeLevel = s.cfg.busyActive then (some .line12, s.drawn 1) else (none, (s.drawn 1).setupSent)

/-- Power-up from line 11 on over free levels (R85, R114). -/
def State.freeFrom11 (s : State) : Option BusyWait × State :=
  if s.freeLevel = s.cfg.busyActive then (s.drawn 1).freeFrom12 else (some .line11, s.drawn 1)

/-- Power-up from line 8 on over free levels (R85, R114). -/
def State.freeFrom8 (s : State) : Option BusyWait × State :=
  if s.freeLevel = s.cfg.busyActive then (some .line8, s.drawn 1) else (s.drawn 1).powerOnSent.freeFrom11

/-- Power-up from a busy wait on over free levels (R85, R114). -/
def State.freeFrom (w : BusyWait) (s : State) : Option BusyWait × State :=
  match w with
  | .line8 => s.freeFrom8
  | .line11 => s.freeFrom11
  | .line12 => s.freeFrom12

/-- EPD_START_TRANSFER's lines 2 and 3 (R87). -/
def State.startSent (isAccent : Bool) (s : State) : State :=
  let sent := s.entrySent (if isAccent = true then s.cfg.cmdDtm2 else s.cfg.cmdDtm1) []
  { sent with epd := { sent.epd with streamIdx := 0 } }

/-- EPD_START_TRANSFER's lines 1 to 3 (R87). -/
def State.transferStarted (isAccent : Bool) (s : State) : State := s.poweredUp.startSent isAccent

/-- EPD_SEND_BYTE's lines 2 to 4 (R88). -/
def State.byteStreamed (b : Byte) (s : State) : State :=
  let sent := s.byteHanded (streamRoute s.cfg s.epd.streamIdx) .data b
  { sent with epd := { sent.epd with streamIdx := s.epd.streamIdx + 1 } }

/-- The events of the refresh loop that reads the codes `vs` (R89 lines 4 to 7). -/
def refreshEvents (vs : List U16) : List Event := vs.flatMap fun v => [.sleep 50, .adc v]

/-- EPD_REFRESH_AND_SLEEP's lines 8 to 10 on the minimum code `low` (R89). -/
def State.refreshEnded (low : U16) (s : State) : State :=
  State.shutDown
    { s with
      epd := { s.epd with postRefreshBatt := some (adcScale s.cfg low) },
      trace := s.trace ++ [.baselineRepower] }

/-- The code `AdcSample()` reads next, and the environment after it (R20). -/
def State.nextCode (s : State) : U16 × Env :=
  match s.env.adc with
  | v :: vs => (v, { s.env with adc := vs })
  | [] => (Config.adcCode s.env.draws, { s.env with draws := s.env.draws + 1 })

/-- EPD_REFRESH_AND_SLEEP's lines 2 to 10, its first reading clear (R89). -/
def State.refreshed (s : State) : State :=
  let sent := s.tableSent (panelTable s.cfg s.cfg.tableRefresh)
  State.refreshEnded s.nextCode.1
    { sent with env := s.nextCode.2, trace := sent.trace ++ refreshEvents [s.nextCode.1] }

/-- `PowerUpIfNeeded()` of a panel that is not live, past the given readings (R85, R114). -/
def State.poweredFree (s : State) : Option BusyWait × State :=
  if s.epd.epdPowered = true then (none, s) else s.railUp.freeFrom8

/-- EPD_REFRESH_AND_SLEEP's lines 2 to 10 over one free level: the minimum code with which the host stays in the loop,
if it does (R89, R114). -/
def State.refreshedFree (s : State) : Option U16 × State :=
  let sent := s.tableSent (panelTable s.cfg s.cfg.tableRefresh)
  let read : State := { sent with env := s.nextCode.2, trace := sent.trace ++ refreshEvents [s.nextCode.1] }
  if read.freeLevel = s.cfg.busyActive then (some s.nextCode.1, read.drawn 1)
  else (none, State.refreshEnded s.nextCode.1 (read.drawn 1))

/-! ### RADIO_TRANSMIT's polls, with no other agent scheduled -/

/-- One poll: the next code joins the minimum (R70 line 11). -/
def State.polled (s : State) : State :=
  let v := s.nextCode.1
  { s with
    env := s.nextCode.2,
    arb := { s.arb with txMinBatt := s.arb.txMinBatt.map fun m => if v.toNat < m.toNat then v else m },
    trace := s.trace ++ [.adc v] }

/-- TX done, where it is enabled (R71). -/
def State.txFinished (s : State) : State :=
  if s.arb.radioState = .tx ∧ s.arb.txDone = false then
    { s with arb := { s.arb with txDone := true }, trace := s.trace ++ [.txFrame s.arb.txFrame] }
  else s

/-- Between two polls: a live transceiver finishes, and whether another does is free (R113, log entry 7). -/
def State.betweenPolls (s : State) : State :=
  if s.cfg.assumeXcvrLive = true then s.txFinished
  else if Config.txDoneNow s.env.draws = true then (s.drawn 1).txFinished
  else s.drawn 1

/-- RADIO_TRANSMIT's end after TX done, with `n` slots free and write slot `w` (R70 lines 15 to 18). -/
def State.transmitEnded (w : Fin 3) (n : Nat) (s : State) : State :=
  let ended := State.rxStarted w n { s with arb := { s.arb with radioState := .idle } }
  State.returned 0x04#8 .ok { ended with res := { s.res with value := some 1#16 } }

/-- RADIO_TRANSMIT's timeout (R70 line 14). -/
def State.transmitGivenUp (w : Fin 3) (n : Nat) (s : State) : State :=
  let ended := State.rxStarted w n
    { s with arb := { s.arb with radioState := .idle }, trace := s.trace ++ [.strobe .sidle] }
  State.returned 0x04#8 .transmitFailed { ended with res := { s.res with value := some 0#16 } }

/-- RADIO_TRANSMIT from its loop on, `polls` polls made and `more` polls before the step of the model ends with the host
in the loop (R70 lines 10 to 18, R114; how many polls a step makes is log entry 7's choice). -/
def State.pollsFrom (w : Fin 3) (n : Nat) : Nat → Nat → State → State
  | 0, polls, s => { s with hostPos := .txPoll polls }
  | more + 1, polls, s =>
    let t := s.polled
    if t.arb.txDone = true then t.transmitEnded w n
    else if timedOut t.cfg (polls + 1) = true then t.transmitGivenUp w n
    else State.pollsFrom w n more (polls + 1) t.betweenPolls

/-! ### The bytes on the panel's bus -/

/-- The panel bytes of a piece of the trace, in order (R81). -/
def panelSent (ev : List Event) : List (CtrlSet × ByteKind × Byte) :=
  ev.filterMap fun e =>
    match e with
    | .panelByte t k b => some (t, k, b)
    | _ => none

/-- The byte that stands in the shifter and leaves before any other (R80, R81). -/
def State.inFlight (s : State) : List (CtrlSet × ByteKind × Byte) :=
  if s.epd.spiBusy = true then s.epd.spiHold.toList else []

/-- The bytes of an entry: its command byte and its data bytes, to every controller (R82). -/
def entryBytes (p : Params) (cmd : Byte) (data : List Byte) : List (CtrlSet × ByteKind × Byte) :=
  (allSet p, .cmd, cmd) :: data.map fun b => (allSet p, .data, b)

/-- The bytes of a table's entries (R83). -/
def tableBytes (p : Params) (t : List Byte) : List (CtrlSet × ByteKind × Byte) :=
  (panelTable p t).flatMap fun e => entryBytes p e.1 e.2

/-- The bytes of power-up (R85). -/
def powerUpBytes (p : Params) : List (CtrlSet × ByteKind × Byte) :=
  tableBytes p p.tablePowerup ++ entryBytes p p.cmdPowerOn [] ++ tableBytes p p.tableSetup ++
    entryBytes p p.cmdVcom [p.vcomCal]

/-- The bytes of a pass whose chunks hold `bytes` one after the other: the plane's start command, and each byte
repacked, output byte `k` of the pass going where index `k` is routed (R87, R88, R93). -/
def passBytes (p : Params) (plane : Plane) (bytes : List Byte) : List (CtrlSet × ByteKind × Byte) :=
  entryBytes p (if plane = .accent then p.cmdDtm2 else p.cmdDtm1) [] ++
    (bytes.flatMap (repack p plane)).mapIdx fun k b => (streamRoute p k, .data, b)

/-- The bytes of a whole draw from `s` on whose two passes send `passes`: what is in flight, power-up of an unpowered
panel, the passes, the refresh table and the power-down table (R85, R86, R89, R94, R95). -/
def State.drawBytes (s : State) (passes : List (CtrlSet × ByteKind × Byte)) : List (CtrlSet × ByteKind × Byte) :=
  s.inFlight ++ (if s.epd.epdPowered = true then [] else powerUpBytes s.cfg) ++ passes ++
    tableBytes s.cfg s.cfg.tableRefresh ++ tableBytes s.cfg s.cfg.tablePowerdown

/-- The bytes of one plane in FLASH from address `a` on, modulo 2^24 (R94 line 17). -/
def planeBytes (s : State) (a : U24) : List Byte :=
  (List.range (s.cfg.numChunks * chunkBytes s.cfg)).map fun i => flashRead s.env (a + BitVec.ofNat 24 i)

/-- The bytes of one plane of zeros (R94 line 20, R95 line 8). -/
def zeroBytes (s : State) : List Byte := List.replicate (s.cfg.numChunks * chunkBytes s.cfg) 0#8

/-! ### The draw client -/

/-- Pixel `(x, y)` of the current chunk (R90); `none` where the cell holds no value. -/
def State.pixel (s : State) (x y : Nat) : Option Bool :=
  match s.draw.chunkStartY with
  | none => none
  | some top =>
    (s.draw.scratch.read (x / 8 + (y - top.toNat) * s.cfg.bytesPerLine)).map fun b => b.getLsbD (7 - x % 8)

/-- Pixel `(x, y)` is not clipped: the primitive's plane is the pass's, and the pixel lies on the screen, in
the window and in the chunk (R96). -/
def State.visible (s : State) (x y : Nat) : Prop :=
  s.draw.color = s.draw.passPlane ∧ x < s.cfg.screenW ∧
    (∃ x0 x1 y0 y1 top, s.draw.winX0 = some x0 ∧ s.draw.winX1 = some x1 ∧ s.draw.winY0 = some y0 ∧
      s.draw.winY1 = some y1 ∧ s.draw.chunkStartY = some top ∧ x0.toNat ≤ x ∧ x < x1.toNat ∧
      y0.toNat ≤ y ∧ y < y1.toNat ∧ top.toNat ≤ y ∧ y < top.toNat + s.cfg.linesPerChunk)

/-- `t`'s scratch buffer is `s`'s with the set pixels of `bits` that are visible in `t` inked, and nothing else
changed (R96): a pixel of the chunk is inked after exactly when it was before or it is set and visible, and
no cell outside the chunk changes. -/
def Composited (bits : Nat → Nat → Prop) (s t : State) : Prop :=
  (∀ top x y, s.draw.chunkStartY = some top → x < s.cfg.bytesPerLine * 8 → top.toNat ≤ y →
      y < top.toNat + s.cfg.linesPerChunk →
      ∃ old new, s.pixel x y = some old ∧ t.pixel x y = some new ∧
        (new = true ↔ old = true ∨ (t.visible x y ∧ bits x y))) ∧
    ∀ o, chunkBytes s.cfg ≤ o → t.draw.scratch.read o = s.draw.scratch.read o

/-- `SetWindowY(start, height)` with the chunk at line `top` and the cursor at column `x` (R98). -/
def State.windowYSet (start height : Nat) (top x : U16) (s : State) : State :=
  let out := windowOutside s.cfg start height top.toNat
  let drawY := max start top.toNat
  { s with
    draw := { s.draw with
              winY0 := some (toU16 start), winY1 := some (toU16 (start + height)),
              curY := some (toU16 start), winOutside := some out,
              winDrawY := if out = true then s.draw.winDrawY else some (toU16 drawY),
              bufIdx :=
                if out = true then s.draw.bufIdx
                else some (x.toNat / 8 + (drawY - top.toNat) * s.cfg.bytesPerLine) },
    res := { s.res with outside := some out } }

/-- `winX0 <- x ; winX1 <- x + w ; curX <- x` (R97, R99, R103). -/
def State.windowXSet (x w : Nat) (s : State) : State :=
  { s with
    draw := { s.draw with
              winX0 := some (toU16 x), winX1 := some (toU16 (x + w)), curX := some (toU16 x) } }

/-- A pass begins: its plane, and the transfer start it issues (R94 lines 11 and 12, R95 lines 4 and 5). -/
def State.passStarted (p : Plane) (s : State) : State :=
  ((({ s with draw := { s.draw with passPlane := some p } } : State)).transferStarted (isAccent p)).nestedReturn
    0x13#8 .ok

/-- Chunk `c` begins (R94 line 14, R95 line 7). -/
def State.chunkEntered (c : Nat) (s : State) : State :=
  { s with
    draw := { s.draw with chunkIdx := some c, chunkStartY := some (toU16 (c * s.cfg.linesPerChunk)) } }

/-- The chunk's cells take the bytes `bs` (R94 lines 17 and 20, R95 line 8). -/
def State.chunkSet (bs : List Byte) (s : State) : State :=
  { s with draw := { s.draw with scratch := s.draw.scratch.writeBytes 0 bs } }

/-- The chunk becomes zero bytes (R94 line 20, R95 line 8). -/
def State.chunkZeroed (s : State) : State := s.chunkSet (List.replicate (chunkBytes s.cfg) 0#8)

/-- The chunk is read from FLASH at `ptr`, and the pointer moves on (R94 lines 16 to 18). -/
def State.chunkLoaded (ptr : U24) (s : State) : State :=
  let t := s.chunkSet ((List.range (chunkBytes s.cfg)).map fun i => flashRead s.env (ptr + BitVec.ofNat 24 i))
  { t with
    draw := { t.draw with flashPtr := some (ptr + BitVec.ofNat 24 (chunkBytes s.cfg)) },
    trace := s.trace ++ [.flashRead ptr (chunkBytes s.cfg)] }

/-- The chunk's bytes are streamed, repacked for the plane `p` (R93). -/
def State.chunkStreamed (p : Plane) (s : State) : State :=
  let bytes := (List.range (chunkBytes s.cfg)).map fun i => (s.draw.scratch.read i).getD 0#8
  (bytes.flatMap (repack s.cfg p)).foldl (fun t b => (t.byteStreamed b).nestedReturn 0x14#8 .ok) s

/-- The chunks of an image pass (R94 lines 13 to 21). -/
def State.imageChunks (twoPlanes : Bool) (p : Plane) (s : State) : State :=
  (List.range s.cfg.numChunks).foldl (fun t c =>
    let u := t.chunkEntered c
    (if hasPlane twoPlanes p = true then u.chunkLoaded (u.draw.flashPtr.getD 0#24) else u.chunkZeroed).chunkStreamed p) s

/-- A pass of an image, if it runs (R94 lines 10 to 21). -/
def State.imagePass (twoPlanes : Bool) (p : Plane) (s : State) : State :=
  if hasPlane twoPlanes p = true ∨ s.cfg.alwaysBothPasses = true then (s.passStarted p).imageChunks twoPlanes p else s

/-- The passes of an image draw from the chunks of pass `p` on (R94 lines 9 to 21). -/
def State.imagePasses (twoPlanes : Bool) (p : Plane) (s : State) : State :=
  match p with
  | .mono => (s.imageChunks twoPlanes .mono).imagePass twoPlanes .accent
  | .accent => s.imageChunks twoPlanes .accent

/-- An image draw from the chunks of pass `p` on (R94 lines 9 to 22). -/
def State.imageFrom (twoPlanes : Bool) (p : Plane) (s : State) : State :=
  (s.imagePasses twoPlanes p).refreshed.nestedReturn 0x15#8 .ok

/-- An image draw of a panel that is not live from the chunks of pass `p` on: it returns, or stays in the refresh loop
(R89, R94, R114). -/
def State.imageFreeFrom (twoPlanes : Bool) (p : Plane) (s : State) : State :=
  match (s.imagePasses twoPlanes p).refreshedFree with
  | (some low, t) => { t with hostPos := .refreshPoll low .drawImage }
  | (none, t) => (t.nestedReturn 0x15#8 .ok).returned 0x20#8 .ok

/-- `DrawCtxReset()` (R92, R39). -/
def State.ctxReset (s : State) : State :=
  { s with
    draw :=
      { scratch := [], curX := some 0#16, curY := some 0#16, winX0 := some 0#16,
        winX1 := some (BitVec.ofNat 16 s.cfg.screenW), winY0 := some 0#16,
        winY1 := some (BitVec.ofNat 16 s.cfg.screenH), winDrawY := none, color := some .mono,
        passPlane := some .mono, chunkIdx := some 0, chunkStartY := some 0#16, fontSize := some 1#8,
        direction := some .horizontal, bufIdx := none, flashPtr := none, drawing := s.draw.drawing,
        printing := false, winOutside := none } }

/-- CLIENT_DRAW_IMAGE of a supported tag at `addr`, up to its first pass (R94 lines 2 to 8). -/
def State.imageBegun (addr : U24) (s : State) : State :=
  let read := State.ctxReset { s with trace := s.trace ++ [.flashRead addr 1] }
  { read with draw := { read.draw with flashPtr := some (addr + 1#24) } }

/-- CLIENT_DRAW_IMAGE of a supported tag at `addr` (R94 lines 2 to 22). -/
def State.imageDrawn (addr : U24) (twoPlanes : Bool) (s : State) : State :=
  ((s.imageBegun addr).passStarted .mono).imageFrom twoPlanes .mono

/-- A transfer start of plane `p` that a draw issued, past the power-up of a panel that is not live: the host stays at the
busy wait that has not ended, or the draw goes on with `rest` (R87, R91, R114). -/
def State.startOrStay {α : Type} (caller : PowerCaller) (p : Plane) (stays rest : State → α)
    (power : Option BusyWait × State) : α :=
  match power with
  | (some w, t) => stays { t with hostPos := .busyWait w caller }
  | (none, t) => rest ((t.startSent (isAccent p)).nestedReturn 0x13#8 .ok)

/-- CLIENT_DRAW_IMAGE of a supported tag on a panel that is not live (R94, R114). -/
def State.imageDrawnFree (addr : U24) (twoPlanes : Bool) (s : State) : State :=
  let begun := s.imageBegun addr
  State.startOrStay (.drawImage twoPlanes .mono) .mono id (State.imageFreeFrom twoPlanes .mono)
    (State.poweredFree { begun with draw := { begun.draw with passPlane := some .mono } })

/-- A callback's word run as the command it decodes to, if it is a compositing primitive and ends with a status
(R91, R95 lines 12 and 13). -/
def State.wordIssued (w : Word) (s : State) : Option State :=
  match decode w with
  | .error _ => none
  | .ok i =>
    match exec i s with
    | .next t =>
      if i.drawOnly = true ∧ t.faultMark = none ∧ t.refuseMark = none then some { t with hostPos := s.hostPos }
      else none
    | .fault _ => none
    | .refused _ => none

/-- Steps that may each stop, one after the other. -/
def runAll {α : Type} (f : α → State → Option State) : List α → State → Option State
  | [], s => some s
  | a :: as, s => (f a s).bind (runAll f as)

/-- One scanline of a chunk: the callback's words, in order (R95 lines 10 to 14). -/
def State.lineDrawn (cb : Byte) (p : Plane) (c l : Nat) (s : State) : Option State :=
  let y := (s.draw.chunkStartY.getD 0#16).toNat + l
  (runAll State.wordIssued (callbackWords s.cfg cb y c p) { s with draw := { s.draw with drawing := true } }).map
    fun t => { t with draw := { t.draw with drawing := false } }

/-- One chunk of a screen pass (R95 lines 7 to 15). -/
def State.chunkDrawn (cb : Byte) (p : Plane) (c : Nat) (s : State) : Option State :=
  (runAll (State.lineDrawn cb p c) (List.range s.cfg.linesPerChunk) (s.chunkEntered c).chunkZeroed).map
    (State.chunkStreamed p)

/-- The chunks of a screen pass (R95 lines 6 to 15). -/
def State.screenChunks (cb : Byte) (p : Plane) (s : State) : Option State :=
  runAll (State.chunkDrawn cb p) (List.range s.cfg.numChunks) s

/-- The passes of a screen draw from the chunks of pass `p` on (R95 lines 3 to 15). -/
def State.screenPasses (cb : Byte) (p : Plane) (s : State) : Option State :=
  match p with
  | .mono => (s.screenChunks cb .mono).bind fun t => (t.passStarted .accent).screenChunks cb .accent
  | .accent => s.screenChunks cb .accent

/-- A screen draw from the chunks of pass `p` on (R95 lines 3 to 16). -/
def State.screenFrom (cb : Byte) (p : Plane) (s : State) : Option State :=
  (s.screenPasses cb p).map fun t => t.refreshed.nestedReturn 0x15#8 .ok

/-- A screen draw of a panel that is not live from the chunks of pass `p` on: it returns, or stays in the refresh loop
(R89, R95, R114). -/
def State.screenFreeFrom (cb : Byte) (p : Plane) (s : State) : Option State :=
  (s.screenPasses cb p).map fun t =>
    match t.refreshedFree with
    | (some low, u) => { u with hostPos := .refreshPoll low .drawScreen }
    | (none, u) => (u.nestedReturn 0x15#8 .ok).returned 0x21#8 .ok

/-- CLIENT_DRAW_SCREEN whose callback words all end with a status (R95 lines 2 to 16). -/
def State.screenDrawn (cb : Byte) (s : State) : Option State := (s.ctxReset.passStarted .mono).screenFrom cb .mono

/-- CLIENT_DRAW_SCREEN on a panel that is not live, whose callback words all end with a status (R95, R114). -/
def State.screenDrawnFree (cb : Byte) (s : State) : Option State :=
  let begun := s.ctxReset
  State.startOrStay (.drawScreen cb .mono) .mono some (State.screenFreeFrom cb .mono)
    (State.poweredFree { begun with draw := { begun.draw with passPlane := some .mono } })

/-- The events that count the bytes streamed to the panel: EPD_SEND_BYTE's RESULT (R93). -/
def sentBytes (ev : List Event) : Nat := ev.countP fun e => decide (e = .result 0x14#8 .ok)

/-- The FLASH reads of a piece of the trace, in order (R94). -/
def flashReads (ev : List Event) : List (U24 × Nat) :=
  ev.filterMap fun e =>
    match e with
    | .flashRead a n => some (a, n)
    | _ => none

/-! ### Invariants -/

/-- Every listed address of a memory satisfies `p`. -/
def CellsAt (p : Nat → Prop) (m : Memory) : Prop := ∀ c ∈ m, p c.1

/-- The four written byte spaces are in canonical form and hold cells of their space only (R15, R22). -/
def State.MemoriesOk (s : State) : Prop :=
  s.hostMem.wf = true ∧ s.ring.cells.wf = true ∧ s.draw.scratch.wf = true ∧ s.xreg.wf = true ∧
    CellsAt (· < s.cfg.hostMemSize) s.hostMem ∧
    CellsAt (fun a => ∃ r o, o < slotSize s.cfg ∧ a = ringAddr r o) s.ring.cells ∧
    CellsAt (· < s.cfg.scratchSize) s.draw.scratch ∧ CellsAt (· < 256) s.xreg

/-- The registers with a range of their own are in it: S9 in 0..20, S19 in 0..3 (R10, R12, R13). -/
def State.RangesOk (s : State) : Prop :=
  (∀ i, s.radio.txPowerIdx = some i → i ≤ 20) ∧ ∀ n, s.ring.freeCount = some n → n ≤ 3

/-- Between two steps of a run that has not ended, interrupts are on and no callback is running (R34, R45,
R95): every critical section has restored `ie` and every callback has cleared `drawing`. And the host stands at no line
inside a command but a hold. All three because a step of the model is a whole command (log entry 6). -/
def State.SectionsClosed (s : State) : Prop :=
  (s.Unmarked → s.irq.ie = true ∧ s.draw.drawing = false) ∧ ∀ op n, s.hostPos ≠ .line op n

/-- The arbiter's state machine between two steps (R11, R65): in the RX state the RX DMA is armed, and the block is
in the TX state only while the host stands in RADIO_TRANSMIT's polling loop. -/
def State.ArbiterOk (s : State) : Prop :=
  s.Unmarked →
    (s.arb.radioState = .rx → s.arb.rxArmed = true) ∧
      (s.arb.radioState = .tx ↔ ∃ polls, s.hostPos = .txPoll polls)

/-- The panel's bus (R81, R85, R86): a byte stands in the shifter only while the bus is connected, the bus is
connected while the panel is powered or the host stands at a busy wait, and no disconnected byte was shifted. -/
def State.BusOk (s : State) : Prop :=
  s.faultMark ≠ some .spiDisconnected ∧ s.ShifterReady ∧
    (s.Unmarked →
      (s.epd.epdPowered = true → s.epd.spiConnected = true) ∧
      (∀ w c, s.hostPos = .busyWait w c → s.epd.spiConnected = true ∧ s.epd.epdPowered = false) ∧
      ∀ m c, s.hostPos = .refreshPoll m c → s.epd.epdPowered = true)

end Sys2Proof.Machine
end

