-- ==== Sys2Proof/Certificates/Slice0/Obligations.lean ====
section
/-! DEFINITION. The statements for the provers. Where a statement assumes `Quiet`, no other agent is scheduled
among the command's lines, and a step that the host awaits is taken at once: the model's choice of when, log entries 5
and 7 under notes/assumptions/. The statements on the agents' own steps, the frames and the invariants hold under
every schedule. -/

open Sys2Proof Sys2Proof.Machine

/-! ### Decoding and the step -/

/-- Decoding the word of a command gives the command back, with every operand (R40 to R43). -/
def Obligations.DecodeOfEncode : Prop :=
  ∀ i : Instr, i.wellFormed = true → decode (encode i) = .ok i

/-- A word that decodes is the word of its command, and the command is well formed: no two words decode to one
command (R40 to R44). -/
def Obligations.EncodeOfDecode : Prop :=
  ∀ (w : Word) (i : Instr), decode w = .ok i → i.wellFormed = true ∧ encode i = w ∧ i.opcode = opcodeOf w

/-- Which words are refused, and with what: the opcode first, then the reserved bits, then EPD_SEND_TABLE's id
(R44, R108). -/
def Obligations.DecodeRefusesExactly : Prop :=
  ∀ w : Word,
    match zeroBits (opcodeOf w) with
    | none => decode w = .error (.reservedOpcode w)
    | some z =>
      if operandOf w &&& z ≠ 0#24 then decode w = .error (.reservedBits w)
      else if opcodeOf w = 0x10#8 ∧ 3 < (operandOf w).toNat then decode w = .error (.reservedOperand w)
      else ∃ i, decode w = .ok i

/-- A few words written out from the encoding (R43 and the encoding lines of the command rules). -/
def Obligations.WrittenWordsDecode : Prop :=
  decode 0x02000067#32 = .ok (.radioSetChannel 103#8) ∧
    decode 0x0300009C#32 = .ok (.radioSetTxPower 0x9C#8) ∧
    decode 0x04000100#32 = .ok (.radioTransmit 0x0100#16) ∧
    decode 0x05000001#32 = .ok (.radioEnableRx true) ∧
    decode 0x10000003#32 = .ok (.epdSendTable 3#8) ∧
    decode 0x20001000#32 = .ok (.clientDrawImage 0x001000#24) ∧
    decode 0x22004008#32 = .ok (.clientSetWindowX 4#12 8#12) ∧
    decode 0x10000004#32 = .error (.reservedOperand 0x10000004#32)

/-- The host's turn runs the command that its next word decodes to, on the state with that word taken. An empty
entry of the schedule, which gives the turn to the host, is taken with it (the model's choice, log entries 5 and 9). -/
def Obligations.StepRunsDecodedCommand : Prop :=
  ∀ (s : State) (w : Word) (q : List HostAct) (i : Instr),
    s.Unmarked → s.started = true → s.hostPos = .idle → s.env.sched.head?.getD [] = [] →
    s.hostQueue = .command w :: q → decode w = .ok i →
    step s = exec i { s with hostQueue := q, env := { s.env with sched := s.env.sched.tail } }

/-- A word the decoder refuses changes nothing but the refusal mark (R44, R107); the word leaves the host's
queue, which is the model's own (log entry 9). -/
def Obligations.RefusedWordOnlyMarks : Prop :=
  ∀ (s : State) (w : Word) (q : List HostAct) (e : DecodeError),
    s.Unmarked → s.started = true → s.hostPos = .idle → s.env.sched.head?.getD [] = [] →
    s.hostQueue = .command w :: q → decode w = .error e →
    step s = .next { s with
      hostQueue := q, env := { s.env with sched := s.env.sched.tail },
      refuseMark := some (match e with
        | .reservedOpcode v => .reservedOpcode v
        | .reservedBits v => .reservedBits v
        | .reservedOperand v => .reservedOperand v) }

/-- After a fault or a refusal no step is taken: the block answers its mark (R106, R107). -/
def Obligations.MarkedBlockStops : Prop :=
  ∀ s : State,
    (∀ f, s.faultMark = some f → step s = .fault f) ∧
      ∀ x, s.faultMark = none → s.refuseMark = some x → step s = .refused x

/-- While the host is idle, a step that the schedule names is taken, as one step (R6, R7, R111); one that faults leaves
what it wrote before the fault, and the fault's mark (R106; of the interrupt handler, log entry 27). That a schedule names
the agents' steps is the model's choice (log entry 5). -/
def Obligations.IdleStepTakesScheduledAgent : Prop :=
  ∀ (s t : State) (m : Move) (ms : List Move) (rest : List (List Move)),
    s.Unmarked → s.started = true → s.hostPos = .idle → s.env.sched = (m :: ms) :: rest →
    ((takeMove m).run { s with env := { s.env with sched := ms :: rest } } = .ok () t →
      step s = .next { t with hostPos := .idle }) ∧
    ∀ f : Fault, (takeMove m).run { s with env := { s.env with sched := ms :: rest } } = .error (.fault f) t →
      step s = .next { t with hostPos := .idle, faultMark := some f } ∧
      (m ≠ .isr → t = { s with env := { s.env with sched := ms :: rest } })

/-! ### Parameters, tables and reset -/

/-- The model starts with a parameter record exactly when its parameters lie in R1's ranges and it meets R2's checks; any
other record is refused with `X_BAD_CONFIG`. That R1's ranges are checked with R2 is the model's reading, log entry 16. -/
def Obligations.StartChecksParameters : Prop :=
  ∀ s : State, s.Unmarked → s.started = false →
    (InR1Ranges s.cfg ∧ MeetsR2 s.cfg → step s = .next { s with started := true }) ∧
    (¬(InR1Ranges s.cfg ∧ MeetsR2 s.cfg) → step s = .next { s with refuseMark := some .badConfig }) ∧
    (paramsOk s.cfg = true ↔ InR1Ranges s.cfg ∧ MeetsR2 s.cfg)

/-- An RF table is read pair by pair up to the first sentinel at an even offset, and a panel table entry by entry
up to the first zero count; what follows is no part of them (R47, R48). -/
def Obligations.TablesAreReadToTheirEnd : Prop :=
  (∀ (sentinel : Byte) (es : List (Byte × Byte)) (rest : List Byte), (∀ e ∈ es, e.1 ≠ sentinel) →
    rfEntries sentinel (es.flatMap (fun e => [e.1, e.2]) ++ sentinel :: rest) = some es) ∧
  (∀ (es : List (Byte × List Byte)) (rest : List Byte), (∀ e ∈ es, e.2.length < 255) →
    panelEntries .cmdAndData
        (es.flatMap (fun e => BitVec.ofNat 8 (e.2.length + 1) :: e.1 :: e.2) ++ 0#8 :: rest) = some es) ∧
  ∀ (es : List (Byte × List Byte)) (rest : List Byte), (∀ e ∈ es, 1 ≤ e.2.length ∧ e.2.length ≤ 255) →
    panelEntries .dataOnly
        (es.flatMap (fun e => BitVec.ofNat 8 e.2.length :: e.1 :: e.2) ++ 0#8 :: rest) = some es

/-- Reset leaves the reset column of 10_state.md: every flag and register, UNSET where the column says so, and
every byte space without a value. The slave's chip select is a register of the block only with two controllers (S31); with
one, log entry 25 holds and nothing is claimed. -/
def Obligations.ResetLeavesResetColumn : Prop :=
  State.reset.radio =
      { probed := false, present := false, initialized := false, enabled := false, freqTest := false,
        irqRaisedRx := false, cfgPtr := .none, curBand := none, curChanr := none, txPowerIdx := none } ∧
    State.reset.arb =
      { rxEnabled := false, rxArmed := false, radioState := .idle, txDone := false, txFrame := [],
        txMinBatt := none } ∧
    State.reset.irq = { ie := true, rxDonePending := false } ∧
    State.reset.res = { status := none, value := none, lqi := none, rssi := none, outside := none } ∧
    (State.reset.ring.writeIdx = none ∧ State.reset.ring.readIdx = none ∧ State.reset.ring.freeCount = none) ∧
    State.reset.epd.epdPowered = false ∧ State.reset.epd.spiConnected = false ∧
    State.reset.epd.pinPwr = State.reset.cfg.pwrOffLevel ∧ State.reset.epd.pinRst = false ∧
    State.reset.epd.pinCsM = false ∧ (State.reset.cfg.numCtrl = 2 → State.reset.epd.pinCsS = false) ∧
    State.reset.epd.pinLinesLow = true ∧
    State.reset.epd.spiBusy = false ∧ State.reset.epd.spiHold = none ∧ State.reset.epd.streamIdx = 0 ∧
    State.reset.epd.postRefreshBatt = none ∧
    State.reset.draw =
      { scratch := [], curX := none, curY := none, winX0 := none, winX1 := none, winY0 := none,
        winY1 := none, winDrawY := none, color := none, passPlane := none, chunkIdx := none,
        chunkStartY := none, fontSize := none, direction := none, bufIdx := none, flashPtr := none,
        drawing := false, printing := false, winOutside := none } ∧
    (∀ a, State.reset.hostMem.read a = none ∧ State.reset.ring.cells.read a = none ∧
      State.reset.xreg.read a = none) ∧
    State.reset.faultMark = none ∧ State.reset.refuseMark = none ∧ State.reset.hostPos = .idle ∧
    State.reset.trace = []

/-- The state after reset meets every invariant below. -/
def Obligations.ResetMeetsTheInvariants : Prop :=
  State.reset.MemoriesOk ∧ State.reset.RangesOk ∧ State.reset.SectionsClosed ∧ State.reset.ArbiterOk ∧
    State.reset.BusOk

/-! ### The agents' steps -/

/-- Frame arrival (R62): while it is enabled, a frame of the shape R62 gives fills the write slot from its first
byte on, and no other cell, in one step; while it is not, nothing happens. -/
def Obligations.FrameArrivalFillsTheWriteSlot : Prop :=
  ∀ (s : State) (len : Byte) (rest : List Byte) (w : Fin 3), s.ring.writeIdx = some w →
    (s.arb.rxArmed = true → s.arb.radioState = .rx → s.irq.rxDonePending = false →
      (len :: rest).length = min (len.toNat + 3) (s.cfg.maxPayload + 3) →
      ∃ cells,
        (takeMove (.frameArrival (len :: rest))).run s =
          .ok () { s with
            ring := { s.ring with cells := cells },
            arb := { s.arb with rxArmed := false, radioState := .idle },
            irq := { s.irq with rxDonePending := true },
            trace := s.trace ++ [.rxFrame w (len :: rest)] } ∧
        ∀ a, cells.read a =
          if ringAddr w 0 ≤ a ∧ a < ringAddr w 0 + (rest.length + 1) then (len :: rest)[a - ringAddr w 0]?
          else s.ring.cells.read a) ∧
    (¬(s.arb.rxArmed = true ∧ s.arb.radioState = .rx ∧ s.irq.rxDonePending = false) →
      (takeMove (.frameArrival (len :: rest))).run s = .ok () s)

/-- TX done (R71). -/
def Obligations.TxDoneSendsTheFrame : Prop :=
  ∀ s : State,
    (takeMove .txDone).run s =
      if s.arb.radioState = .tx ∧ s.arb.txDone = false then
        .ok () { s with arb := { s.arb with txDone := true }, trace := s.trace ++ [.txFrame s.arb.txFrame] }
      else .ok () s

/-- The shifter's step (R81): it does nothing while no byte stands in it, sends the byte it holds, and raises
`F_SPI_DISCONNECTED` while the bus is not connected. -/
def Obligations.ShifterSendsTheHeldByte : Prop :=
  ∀ s : State,
    (s.epd.spiBusy = false → (takeMove .spiStep).run s = .ok () s) ∧
    (s.epd.spiBusy = true → s.epd.spiConnected = false →
      (takeMove .spiStep).run s = .error (.fault .spiDisconnected) s) ∧
    ∀ t k b, s.epd.spiBusy = true → s.epd.spiConnected = true → s.epd.spiHold = some (t, k, b) →
      (takeMove .spiStep).run s =
        .ok () { s with epd := { s.epd with spiBusy := false }, trace := s.trace ++ [.panelByte t k b] }

/-- The interrupt handler (R63, R64, R110): no step while interrupts are off or nothing is pending; a frame
whose length is in range and whose CRC flag is set takes a slot, and where no slot is free raises `F_RING_RANGE(−1)` at
R64's count line, the lines before it keeping their writes (R13, R106; reached as log entry 18 says; that the handler's one
step has lines in R106's sense, and that it ends with interrupts off, is log entry 27); any other frame takes none; RX is
started again where R60's condition holds. -/
def Obligations.InterruptAcceptsOrRejects : Prop :=
  ∀ s : State,
    (¬(s.irq.ie = true ∧ s.irq.rxDonePending = true) → (takeMove .isr).run s = .ok () s) ∧
    ∀ (w : Fin 3) (n : Nat) (len : Byte), s.irq.ie = true → s.irq.rxDonePending = true →
      s.ring.writeIdx = some w → s.ring.freeCount = some n → s.ring.cells.read (ringAddr w 0) = some len →
      (∀ flags : Byte, 1 ≤ len.toNat → len.toNat ≤ s.cfg.maxPayload →
        s.ring.cells.read (ringAddr w (len.toNat + 2)) = some flags → flags.getLsbD 7 = true →
        (1 ≤ n → n ≤ 3 →
          (takeMove .isr).run s =
            .ok () (State.rxStarted (w + 1) (n - 1)
              { s with
                irq := { s.irq with rxDonePending := false },
                radio := { s.radio with irqRaisedRx := true },
                ring := { s.ring with writeIdx := some (w + 1), freeCount := some (n - 1) },
                trace := s.trace ++ [.isrEntry true] })) ∧
        (n = 0 → (takeMove .isr).run s =
          .error (.fault (.ringRange (-1)))
            { s with
              irq := { ie := false, rxDonePending := false },
              radio := { s.radio with irqRaisedRx := true },
              ring := { s.ring with writeIdx := some (w + 1) },
              trace := s.trace ++ [.isrEntry true] })) ∧
      ((len = 0#8 ∨ s.cfg.maxPayload < len.toNat ∨
          ∃ flags : Byte, s.ring.cells.read (ringAddr w (len.toNat + 2)) = some flags ∧
            flags.getLsbD 7 = false) →
        (takeMove .isr).run s =
          .ok () (State.rxStarted w n
            { s with
              irq := { s.irq with rxDonePending := false },
              radio := { s.radio with irqRaisedRx := true },
              trace := s.trace ++ [.isrEntry false] }))

/-! ### The radio half -/

/-- The radio gate (R56): its three checks in order, and a gated command that it closes leaves its status, with
`res_value` 0 for RADIO_TRANSMIT and −1 for RADIO_RX_ACK_GET_LAST, and no other effect. -/
def Obligations.ClosedGateEndsTheCommand : Prop :=
  ∀ (i : Instr) (s : State) (st : Status), i.gated = true → s.Quiet →
    (st = if s.radio.probed = true ∧ s.radio.present = false then .hwNotFound
      else if s.radio.initialized = false then .notInitialized
      else if s.radio.enabled = false then .notEnabled
      else .ok) → st ≠ .ok →
    exec i s = .next (State.returned i.opcode st
      (match i with
        | .radioTransmit _ => { s with res := { s.res with value := some 0#16 } }
        | .radioRxAckGetLast => { s with res := { s.res with value := some 0xFFFF#16 } }
        | _ => s))

/-- Test mode (R57): the six commands are refused once their gate has passed, and no other radio command ever
answers `X_TEST_MODE`. -/
def Obligations.TestModeRefusesSixCommands : Prop :=
  (∀ (i : Instr) (s : State), i.refusedInTest = true → s.Quiet → radioGate s.radio = .ok →
    s.radio.freqTest = true → exec i s = .next (s.refusedWith .testMode)) ∧
  ∀ (i : Instr) (s t : State), i.ofRadio = true → i.refusedInTest = false →
    s.refuseMark ≠ some .testMode → exec i s = .next t → t.refuseMark ≠ some .testMode

/-- RADIO_INIT (R66), for every identity byte the environment lists next (log entry 4): a wrong identity closes the
radio; the expected one programs the transceiver from `P_TABLE_HIGH`, sets the power and empties the ring. -/
def Obligations.RadioInitProgramsOrFails : Prop :=
  ∀ (s : State) (id : Byte) (ids : List Byte), s.Quiet → s.env.idBytes = id :: ids →
    (id ≠ s.cfg.chipIdExpected →
      exec .radioInit s = .next (State.returned 0x01#8 .hwNotFound
        { s with
          env := { s.env with idBytes := ids },
          radio := { s.radio with probed := true, present := false, initialized := false, enabled := false },
          arb := { s.arb with rxArmed := false, radioState := .idle },
          irq := { s.irq with rxDonePending := false },
          trace := s.trace ++ [.strobe .sres, .busRead s.cfg.regId id] })) ∧
    ∀ (idx : Nat) (code : Byte), id = s.cfg.chipIdExpected → paramsOk s.cfg = true →
      idx = ((max (-30) (min s.cfg.initTxDbm.toInt 10) + 30) / 2).toNat → s.cfg.paCode[idx]? = some code →
      exec .radioInit s = .next (State.returned 0x01#8 .ok
        { s with
          env := { s.env with idBytes := ids },
          radio :=
            { probed := true, present := true, initialized := true, enabled := true, freqTest := false,
              irqRaisedRx := false, cfgPtr := .high, curBand := some .high, curChanr := none,
              txPowerIdx := some idx },
          arb := { s.arb with
                    rxEnabled := false, rxArmed := false, radioState := .idle, txDone := false, txFrame := [] },
          ring := { s.ring with writeIdx := some 0, readIdx := some 0, freeCount := some 3 },
          irq := { s.irq with rxDonePending := false },
          xreg :=
            Memory.write
              ((rfTable s.cfg s.cfg.tableHigh).foldl (fun m e => m.write e.1.toNat e.2) s.xreg)
              s.cfg.regPatable.toNat code,
          trace := s.trace ++ [.strobe .sres, .busRead s.cfg.regId id] ++
            (rfTable s.cfg s.cfg.tableHigh).map (fun e => .busWrite e.1 e.2) ++
            [.busWrite s.cfg.regPatable code] })

/-- RADIO_SET_CHANNEL (R67): the band by the two ranges, the lower first, an id outside both being the upper
band's first channel; the band's table only when the configuration pointer is elsewhere; the channel register. -/
def Obligations.SetChannelSelectsBandAndRegister : Prop :=
  ∀ (s : State) (ch : Byte) (b : Band) (c : Nat) (ptr : CfgPtr) (es : List (Byte × Byte)),
    s.Quiet → radioGate s.radio = .ok → s.radio.freqTest = false → paramsOk s.cfg = true →
    (b, c) =
      (if s.cfg.lowFirst.toNat ≤ ch.toNat ∧ ch.toNat ≤ s.cfg.lowLast.toNat then
        (Band.low, (ch.toNat - s.cfg.lowFirst.toNat) * 3)
      else if s.cfg.highFirst.toNat ≤ ch.toNat ∧ ch.toNat ≤ s.cfg.highLast.toNat then
        (Band.high, (ch.toNat - s.cfg.highFirst.toNat) * 12)
      else (Band.high, 0)) →
    ptr = (match b with | .low => .low | .high => .high) →
    es = (if s.radio.cfgPtr = ptr then []
      else rfTable s.cfg (match b with | .low => s.cfg.tableLow | .high => s.cfg.tableHigh)) →
    c ≤ 255 ∧
    exec (.radioSetChannel ch) s = .next (State.returned 0x02#8 .ok
      { s with
        radio := { s.radio with cfgPtr := ptr, curBand := some b, curChanr := some (BitVec.ofNat 8 c) },
        xreg := Memory.write (es.foldl (fun m e => m.write e.1.toNat e.2) s.xreg) s.cfg.regChannr.toNat
          (BitVec.ofNat 8 c),
        trace := s.trace ++ es.map (fun e => .busWrite e.1 e.2) ++
          [.busWrite s.cfg.regChannr (BitVec.ofNat 8 c)] })

/-- RADIO_SET_TX_POWER (R59, R68), in test mode too: the signed operand clamped to [−30, 10], the index
`(d + 30) / 2`, and the code it selects written to the power register. -/
def Obligations.SetTxPowerWritesTheClampedCode : Prop :=
  ∀ (s : State) (dBm : Byte) (idx : Nat), s.Quiet → radioGate s.radio = .ok → paramsOk s.cfg = true →
    (idx : Int) = (max (-30) (min dBm.toInt 10) + 30) / 2 →
    idx ≤ 20 ∧
    ∃ code, s.cfg.paCode[idx]? = some code ∧
      exec (.radioSetTxPower dBm) s = .next (State.returned 0x03#8 .ok
        { s with
          radio := { s.radio with txPowerIdx := some idx },
          xreg := s.xreg.write s.cfg.regPatable.toNat code,
          trace := s.trace ++ [.busWrite s.cfg.regPatable code] })

/-- RADIO_SET_FREQ_TEST (R69): entering stops receive and applies the test table; leaving applies the band's
table again, rewrites the channel register if it was set, and starts receive again where R60's condition holds;
a repeated request does nothing. -/
def Obligations.FreqTestEntersAndLeaves : Prop :=
  ∀ s : State, s.Quiet → radioGate s.radio = .ok → paramsOk s.cfg = true →
    (s.radio.freqTest = false →
      exec (.radioSetFreqTest true) s = .next (State.returned 0x09#8 .ok
        (State.rfApplied (rfTable s.cfg s.cfg.tableTest)
          { s.rxStopped false with
            radio := { s.radio with freqTest := true, cfgPtr := .test } }))) ∧
    (∀ on : Bool, s.radio.freqTest = on →
      exec (.radioSetFreqTest on) s = .next (s.returned 0x09#8 .ok)) ∧
    ∀ (b : Band) (n : Nat) (w : Fin 3), s.radio.freqTest = true → s.radio.curBand = some b →
      s.ring.freeCount = some n → s.ring.writeIdx = some w →
      exec (.radioSetFreqTest false) s = .next (State.returned 0x09#8 .ok (State.rxStarted w n
        (State.rfApplied
          (rfTable s.cfg (match b with | .low => s.cfg.tableLow | .high => s.cfg.tableHigh) ++
            (match s.radio.curChanr with | some c => [(s.cfg.regChannr, c)] | none => []))
          { s with
            radio := { s.radio with
                        freqTest := false, cfgPtr := match b with | .low => .low | .high => .high } })))

/-- RADIO_TRANSMIT of a frame of valid length, by a live transceiver whose TX-done step falls between the first and
the second poll (R61, R70, R71; that it falls there is the model's choice, log entry 7): receive stops, the frame is
snapshot and sent, the minimum code of the polls is kept, and receive starts again where R60's condition holds. -/
def Obligations.TransmitSendsTheFrame : Prop :=
  ∀ (s : State) (buf : U16) (len : Byte) (payload : List Byte) (n : Nat) (w : Fin 3) (v1 v2 : U16)
      (vs : List U16) (k : Bool) (ks : List Bool),
    s.Quiet → radioGate s.radio = .ok → s.radio.freqTest = false →
    s.HostHolds buf.toNat (len :: payload) → payload.length = len.toNat → 1 ≤ len.toNat →
    len.toNat ≤ s.cfg.maxPayload → s.ring.freeCount = some n → s.ring.writeIdx = some w →
    s.env.adc = v1 :: v2 :: vs → s.env.keep = k :: ks → s.cfg.assumeXcvrLive = true →
    (∀ m, s.cfg.txTimeout = some m → 2 ≤ m) →
    exec (.radioTransmit buf) s = .next (State.returned 0x04#8 .ok
      (let done := State.rxStarted w n
        { s.rxStopped (s.irq.rxDonePending && k) with
          env := { s.env with adc := vs, keep := ks },
          arb :=
            { rxEnabled := s.arb.rxEnabled, rxArmed := false, radioState := .idle, txDone := true,
              txFrame := len :: payload,
              txMinBatt := some (if v2.toNat < v1.toNat then v2 else v1) },
          trace := s.trace ++ [.strobe .sidle, .strobe .stx, .adc v1, .txFrame (len :: payload), .adc v2] }
      { done with res := { s.res with value := some 1#16 } }))

/-- RADIO_TRANSMIT that does not send, or waits to (R70): a length of 0 or above the maximum is BAD_OPERAND before receive
is stopped; a length byte outside HOST or not written raises its fault; a frame whose further bytes run past HOST or are not
written raises it after receive is stopped; with `P_TX_TIMEOUT = 1` the first poll without TX done ends in TRANSMIT_FAILED;
and with no timeout and a transceiver that is not live, whose TX done is free, the host stays in the polling loop (R114),
from which it goes on poll by poll until TX done or the timeout, or stays again. Whatever the timeout and the transceiver, the
polls go as `State.pollsFrom` says, from the command and from a hold. That TX done falls between two polls, and that a step of
the model ends after two polls without it, are the model's choices, log entries 6 and 7. -/
def Obligations.TransmitEndsWithoutSending : Prop :=
  (∀ (s : State) (buf : U16), s.Quiet → radioGate s.radio = .ok → s.radio.freqTest = false →
    (∀ len : Byte, s.HostHolds buf.toNat [len] → len = 0#8 ∨ s.cfg.maxPayload < len.toNat →
      exec (.radioTransmit buf) s = .next (State.returned 0x04#8 .badOperand
        { s with res := { s.res with value := some 0#16 } })) ∧
    (s.cfg.hostMemSize ≤ buf.toNat →
      exec (.radioTransmit buf) s = .next (s.faultedWith (.range .host buf.toNat))) ∧
    (buf.toNat < s.cfg.hostMemSize → s.hostMem.read buf.toNat = none →
      exec (.radioTransmit buf) s = .next (s.faultedWith (.unwritten .host buf.toNat))) ∧
    (∀ (len : Byte) (pre : List Byte) (k : Bool) (ks : List Bool) (a : Nat) (stopped : State),
      s.HostHolds buf.toNat (len :: pre) → len.toNat ≤ s.cfg.maxPayload → pre.length < len.toNat →
      s.env.keep = k :: ks → a = buf.toNat + 1 + pre.length →
      stopped = { s.rxStopped (s.irq.rxDonePending && k) with env := { s.env with keep := ks } } →
      (s.cfg.hostMemSize ≤ a → exec (.radioTransmit buf) s = .next (stopped.faultedWith (.range .host a))) ∧
      (a < s.cfg.hostMemSize → s.hostMem.read a = none →
        exec (.radioTransmit buf) s = .next (stopped.faultedWith (.unwritten .host a)))) ∧
    (∀ (len : Byte) (payload : List Byte) (n : Nat) (w : Fin 3) (v : U16) (vs : List U16) (k : Bool)
        (ks : List Bool),
      s.HostHolds buf.toNat (len :: payload) → payload.length = len.toNat → 1 ≤ len.toNat →
      len.toNat ≤ s.cfg.maxPayload → s.ring.freeCount = some n → s.ring.writeIdx = some w →
      s.env.adc = v :: vs → s.env.keep = k :: ks → s.cfg.txTimeout = some 1 →
      exec (.radioTransmit buf) s = .next (State.returned 0x04#8 .transmitFailed
        (let done := State.rxStarted w n
          { s.rxStopped (s.irq.rxDonePending && k) with
            env := { s.env with adc := vs, keep := ks },
            arb :=
              { rxEnabled := s.arb.rxEnabled, rxArmed := false, radioState := .idle, txDone := false,
                txFrame := len :: payload, txMinBatt := some v },
            trace := s.trace ++ [.strobe .sidle, .strobe .stx, .adc v, .strobe .sidle] }
        { done with res := { s.res with value := some 0#16 } }))) ∧
    ∀ (len : Byte) (payload : List Byte) (n : Nat) (w : Fin 3) (v1 v2 : U16) (vs : List U16) (k : Bool)
        (ks : List Bool),
      s.HostHolds buf.toNat (len :: payload) → payload.length = len.toNat → 1 ≤ len.toNat →
      len.toNat ≤ s.cfg.maxPayload → s.ring.freeCount = some n → s.ring.writeIdx = some w →
      s.env.adc = v1 :: v2 :: vs → s.env.keep = k :: ks → s.cfg.txTimeout = none → s.cfg.assumeXcvrLive = false →
      exec (.radioTransmit buf) s = .next
        (let stopped := s.rxStopped (s.irq.rxDonePending && k)
        let low := if v2.toNat < v1.toNat then v2 else v1
        let arb (state : RadioState) (done : Bool) : Arbiter :=
          { rxEnabled := s.arb.rxEnabled, rxArmed := false, radioState := state, txDone := done,
            txFrame := len :: payload, txMinBatt := some low }
        if Config.txDoneNow s.env.draws = true then
          State.returned 0x04#8 .ok
            (let ended := State.rxStarted w n
              { stopped with
                env := { s.env with adc := vs, keep := ks, draws := s.env.draws + 1 },
                arb := arb .idle true,
                trace := s.trace ++ [.strobe .sidle, .strobe .stx, .adc v1, .txFrame (len :: payload), .adc v2] }
            { ended with res := { s.res with value := some 1#16 } })
        else
          { stopped with
            env := { s.env with adc := vs, keep := ks, draws := s.env.draws + 2 },
            arb := arb .tx (Config.txDoneNow (s.env.draws + 1)),
            hostPos := .txPoll 2,
            trace := s.trace ++ [.strobe .sidle, .strobe .stx, .adc v1, .adc v2] ++
              (if Config.txDoneNow (s.env.draws + 1) = true then [.txFrame (len :: payload)] else []) })) ∧
  (∀ (s : State) (buf : U16) (len : Byte) (payload : List Byte) (n : Nat) (w : Fin 3) (k : Bool) (ks : List Bool),
    s.Quiet → radioGate s.radio = .ok → s.radio.freqTest = false →
    s.HostHolds buf.toNat (len :: payload) → payload.length = len.toNat → 1 ≤ len.toNat →
    len.toNat ≤ s.cfg.maxPayload → s.ring.freeCount = some n → s.ring.writeIdx = some w → s.env.keep = k :: ks →
    exec (.radioTransmit buf) s = .next (State.pollsFrom w n 2 0
      { s.rxStopped (s.irq.rxDonePending && k) with
        env := { s.env with keep := ks },
        arb :=
          { rxEnabled := s.arb.rxEnabled, rxArmed := false, radioState := .tx, txDone := false,
            txFrame := len :: payload, txMinBatt := some 0xFFFF#16 },
        trace := s.trace ++ [.strobe .sidle, .strobe .stx] })) ∧
  (∀ (s : State) (polls n : Nat) (w : Fin 3), s.HeldQuiet → s.hostPos = .txPoll polls →
    s.ring.freeCount = some n → s.ring.writeIdx = some w → s.arb.txMinBatt ≠ none →
    step s = .next (State.pollsFrom w n 2 polls s)) ∧
  (∀ (s : State) (polls n : Nat) (w : Fin 3) (m v1 v2 : U16) (vs : List U16),
    s.HeldQuiet → s.hostPos = .txPoll polls → s.ring.freeCount = some n → s.ring.writeIdx = some w →
    s.arb.radioState = .tx → s.arb.txDone = false → s.arb.txMinBatt = some m → s.env.adc = v1 :: v2 :: vs →
    s.cfg.txTimeout = none → s.cfg.assumeXcvrLive = false →
    step s = .next
      (let first := if v1.toNat < m.toNat then v1 else m
      let low := if v2.toNat < first.toNat then v2 else first
      let done := Config.txDoneNow (s.env.draws + 1)
      if Config.txDoneNow s.env.draws = true then
        State.transmitEnded w n
          { s with
            env := { s.env with adc := vs, draws := s.env.draws + 1 },
            arb := { s.arb with txDone := true, txMinBatt := some low },
            trace := s.trace ++ [.adc v1, .txFrame s.arb.txFrame, .adc v2] }
      else
        { s with
          env := { s.env with adc := vs, draws := s.env.draws + 2 },
          arb := { s.arb with txDone := done, txMinBatt := some low },
          hostPos := .txPoll (polls + 2),
          trace := s.trace ++ [.adc v1, .adc v2] ++ (if done = true then [.txFrame s.arb.txFrame] else []) })) ∧
  ∀ (s : State) (polls n : Nat) (w : Fin 3) (m v : U16) (vs : List U16),
    s.HeldQuiet → s.hostPos = .txPoll polls → s.ring.freeCount = some n → s.ring.writeIdx = some w →
    s.arb.txMinBatt = some m → s.env.adc = v :: vs →
    (s.arb.txDone = true →
      step s = .next (State.returned 0x04#8 .ok
        (let ended := State.rxStarted w n
          { s with
            env := { s.env with adc := vs },
            arb := { s.arb with radioState := .idle, txMinBatt := some (if v.toNat < m.toNat then v else m) },
            trace := s.trace ++ [.adc v] }
        { ended with res := { s.res with value := some 1#16 } }))) ∧
    ∀ last : Nat, s.arb.txDone = false → s.cfg.txTimeout = some last → last ≤ polls + 1 →
      step s = .next (State.returned 0x04#8 .transmitFailed
        (let ended := State.rxStarted w n
          { s with
            env := { s.env with adc := vs },
            arb := { s.arb with radioState := .idle, txMinBatt := some (if v.toNat < m.toNat then v else m) },
            trace := s.trace ++ [.adc v, .strobe .sidle] }
        { ended with res := { s.res with value := some 0#16 } }))

/-- RADIO_ENABLE_RX (R76): turning on from off starts receive where R60's condition holds, turning on again does
nothing, and turning off always stops and disarms. -/
def Obligations.EnableRxTurnsReceptionOnAndOff : Prop :=
  ∀ s : State, s.Quiet → radioGate s.radio = .ok → s.radio.freqTest = false →
    (∀ (n : Nat) (w : Fin 3), s.arb.rxEnabled = false → s.ring.freeCount = some n → s.ring.writeIdx = some w →
      exec (.radioEnableRx true) s = .next (State.returned 0x05#8 .ok
        (State.rxStarted w n { s with arb := { s.arb with rxEnabled := true } }))) ∧
    (s.arb.rxEnabled = true → exec (.radioEnableRx true) s = .next (s.returned 0x05#8 .ok)) ∧
    exec (.radioEnableRx false) s = .next (State.returned 0x05#8 .ok
      { s.rxStopped false with
        radio := { s.radio with irqRaisedRx := false },
        arb := { s.arb with
                  rxEnabled := false, rxArmed := false,
                  radioState := if s.arb.radioState = .rx then .idle else s.arb.radioState } })

/-- RADIO_RECEIVE of a pending frame (R72, R73, R74, R50, R52): the length and payload are copied to HOST byte by
byte, the two status bytes are reported, the read index moves on, one slot is freed, and receive starts again where
the ring was full and R60's condition holds. From the slot the RX DMA is armed into, every byte read is a draw of its own
(R30): the length, the two status bytes, and each byte copied. -/
def Obligations.ReceiveCopiesAndFreesTheSlot : Prop :=
  ∀ (s : State) (dst : U16) (r w : Fin 3) (n : Nat) (len b1 b2 : Byte),
    s.Quiet → radioGate s.radio = .ok → s.radio.freqTest = false →
    s.ring.freeCount = some n → n < 3 → s.ring.readIdx = some r → s.ring.writeIdx = some w →
    len.toNat ≤ s.cfg.maxPayload → dst.toNat + len.toNat < s.cfg.hostMemSize →
    (∀ payload : List Byte, ¬s.ArmedInto r → s.SlotHolds r (len :: payload ++ [b1, b2]) →
      payload.length = len.toNat →
      ∃ m,
        exec (.radioReceive dst) s = .next (State.returned 0x06#8 .ok
          (let freed :=
            { s with
              hostMem := m,
              ring := { s.ring with readIdx := some (r + 1), freeCount := some (n + 1) },
              res := { s.res with
                        lqi := some (lqi b2), rssi := some (rssi s.cfg b1), value := some (len.setWidth 16) } }
          if n = 0 then freed.rxStarted w 1 else freed)) ∧
        (∀ a, m.read a =
          if dst.toNat ≤ a ∧ a ≤ dst.toNat + len.toNat then (len :: payload)[a - dst.toNat]?
          else s.hostMem.read a)) ∧
    ∀ copied rest : List Byte, s.ArmedInto r → s.env.race = len :: b2 :: b1 :: copied ++ rest →
      copied.length = len.toNat + 1 →
      ∃ m,
        exec (.radioReceive dst) s = .next (State.returned 0x06#8 .ok
          { s with
            env := { s.env with race := rest },
            hostMem := m,
            ring := { s.ring with readIdx := some (r + 1), freeCount := some (n + 1) },
            res := { s.res with
                      lqi := some (lqi b2), rssi := some (rssi s.cfg b1), value := some (len.setWidth 16) } }) ∧
        (∀ a, m.read a =
          if dst.toNat ≤ a ∧ a ≤ dst.toNat + len.toNat then copied[a - dst.toNat]? else s.hostMem.read a)

/-- RADIO_RECEIVE that returns no frame (R74): on an empty ring it answers NO_PACKETS and writes nothing else; a slot
whose length byte exceeds the maximum raises `F_STALE_LENGTH`; an unwritten slot raises `F_UNWRITTEN`; and a frame whose
copy runs past HOST raises `F_RANGE` at the first byte outside (R23), with the bytes before it copied, the status bytes
reported and the slot not freed. -/
def Obligations.ReceiveWithoutAFrame : Prop :=
  ∀ (s : State) (dst : U16), s.Quiet → radioGate s.radio = .ok → s.radio.freqTest = false →
    (s.ring.freeCount = some 3 → exec (.radioReceive dst) s = .next (s.returned 0x06#8 .noPackets)) ∧
    ∀ (r : Fin 3) (n : Nat), s.ring.freeCount = some n → n < 3 → s.ring.readIdx = some r → ¬s.ArmedInto r →
      (∀ len : Byte, s.ring.cells.read (ringAddr r 0) = some len → s.cfg.maxPayload < len.toNat →
        exec (.radioReceive dst) s = .next (s.faultedWith (.staleLength r len))) ∧
      (s.ring.cells.read (ringAddr r 0) = none →
        exec (.radioReceive dst) s = .next (s.faultedWith (.unwritten (.ring r) 0))) ∧
      ∀ (len b1 b2 : Byte) (payload : List Byte), s.SlotHolds r (len :: payload ++ [b1, b2]) →
        payload.length = len.toNat → len.toNat ≤ s.cfg.maxPayload →
        s.cfg.hostMemSize ≤ dst.toNat + len.toNat →
        ∃ m,
          exec (.radioReceive dst) s = .next (State.faultedWith (.range .host (max dst.toNat s.cfg.hostMemSize))
            { s with
              hostMem := m,
              res := { s.res with lqi := some (lqi b2), rssi := some (rssi s.cfg b1) } }) ∧
          ∀ a, m.read a =
            if dst.toNat ≤ a ∧ a < s.cfg.hostMemSize then (len :: payload)[a - dst.toNat]? else s.hostMem.read a

/-- RADIO_FLUSH (R75): every slot is free and the indices stay; receive starts again where the ring was full and
R60's condition holds. -/
def Obligations.FlushFreesEverySlot : Prop :=
  ∀ (s : State) (n : Nat) (w : Fin 3), s.Quiet → radioGate s.radio = .ok → s.radio.freqTest = false →
    s.ring.freeCount = some n → s.ring.writeIdx = some w →
    exec .radioFlush s = .next (State.returned 0x07#8 .ok
      (let freed := { s with ring := { s.ring with freeCount := some 3 } }
      if n = 0 then freed.rxStarted w 3 else freed))

/-- RADIO_RX_ACK_GET_LAST (R77), for every answer the environment lists next (log entry 4): −1 or the sequence
number. -/
def Obligations.AckAnswersTheDrawnNumber : Prop :=
  ∀ (s : State) (ack : Option Byte) (acks : List (Option Byte)), s.Quiet → radioGate s.radio = .ok →
    s.radio.freqTest = false → s.env.acks = ack :: acks →
    exec .radioRxAckGetLast s = .next (State.returned 0x08#8 .ok
      { s with
        env := { s.env with acks := acks },
        res := { s.res with
                  value := some (match ack with | none => BitVec.ofInt 16 (-1) | some b => b.setWidth 16) } })

/-- PLATFORM_SET_RADIO_ENABLED (R78), never gated: the flag is set and nothing else of the radio changes. -/
def Obligations.PlatformSetsTheEnabledFlag : Prop :=
  ∀ (s : State) (on : Bool), s.Quiet →
    exec (.platformSetRadioEnabled on) s =
      .next (State.returned 0x0A#8 .ok { s with radio := { s.radio with enabled := on } })

/-- The status-byte transforms (R72, R73): the link quality on integers, doubled below 127 and 255 from there on,
whatever bit 7 says; the signal strength as half the signed byte rounded down, less 77, cut to a signed byte where
`P_RSSI_WRAP8` says so. -/
def Obligations.StatusByteTransforms : Prop :=
  (∀ b : Byte,
    (lqi b).toNat = (if 127 ≤ 148 - b.toNat % 128 then 255 else 2 * (148 - b.toNat % 128)) ∧
      lqi (b ^^^ 0x80#8) = lqi b) ∧
  ∀ (p : Params) (b : Byte),
    (p.rssiWrap8 = false → (rssi p b).toInt = b.toInt / 2 - 77) ∧
      (p.rssiWrap8 = true → (rssi p b).toInt = (b.toInt / 2 - 77).bmod 256)

/-! ### The display half -/

/-- EPD_SEND_TABLE (R82, R83, R84): with the panel powered, the entries of the table that the id names are sent one
after the other. -/
def Obligations.SendTableReplaysTheNamedTable : Prop :=
  ∀ (s : State) (id : Byte) (t : List Byte), s.Quiet → s.epd.epdPowered = true → s.epd.spiConnected = true →
    s.ShifterReady → paramsOk s.cfg = true →
    (id = 0#8 ∧ t = s.cfg.tablePowerup ∨ id = 1#8 ∧ t = s.cfg.tableSetup ∨
      id = 2#8 ∧ t = s.cfg.tablePowerdown ∨ id = 3#8 ∧ t = s.cfg.tableRefresh) →
    exec (.epdSendTable id) s = .next (State.returned 0x10#8 .ok (s.tableSent (panelTable s.cfg t)))

/-- The bytes of one table entry (R82): from an idle shifter, the chip selects, the command byte, the data bytes in
order, the chip selects again; and the shifter is idle at the end. -/
def Obligations.EntrySelectsSendsDeselects : Prop :=
  ∀ (s : State) (cmd : Byte) (data : List Byte), s.Quiet → s.epd.spiConnected = true → s.epd.spiBusy = false →
    ∃ t, (sendEntry cmd data).run s = .ok () t ∧ t.epd.spiBusy = false ∧
      t.trace = s.trace ++
        (controllers s.cfg).map (fun c => .pin (.cs c) s.cfg.csActive) ++
        [.panelByte (allSet s.cfg) .cmd cmd] ++ data.map (fun b => .panelByte (allSet s.cfg) .data b) ++
        (controllers s.cfg).map (fun c => .pin (.cs c) (!s.cfg.csActive)) ∧
      t.epd.pinCsM = !s.cfg.csActive ∧ t.radio = s.radio ∧ t.arb = s.arb ∧ t.ring = s.ring ∧ t.draw = s.draw ∧
      t.hostMem = s.hostMem ∧ t.res = s.res

/-- EPD_SEND_TABLE, EPD_SEND_BYTE and EPD_REFRESH_AND_SLEEP of an unpowered panel are refused (R84, R88, R89). -/
def Obligations.UnpoweredTransfersAreRefused : Prop :=
  ∀ (s : State) (i : Instr), s.Quiet → s.epd.epdPowered = false →
    ((∃ id : Byte, id.toNat ≤ 3 ∧ i = .epdSendTable id) ∨ (∃ b, i = .epdSendByte b) ∨
      i = .epdRefreshAndSleep) →
    exec i s = .next (s.refusedWith .epdNotPowered)

/-- EPD_POWER_UP_IF_NEEDED (R85): a powered panel is left alone; an unpowered live panel, whose busy waits end at
once (the model's choice of when, log entry 7), goes through the power-up sequence; given readings are read one by one until
each wait has its level. Past the given readings of a panel that is not live a level is free, and the host stays at the wait
whose level it does not read (R114), also where the busy pulse was missed (R130); the step after that goes on from that
wait. -/
def Obligations.PowerUpProgramsThePanel : Prop :=
  (∀ s : State, s.Quiet →
    (s.epd.epdPowered = true → exec .epdPowerUpIfNeeded s = .next (s.returned 0x11#8 .ok)) ∧
    (s.epd.epdPowered = false → paramsOk s.cfg = true → s.ShifterReady →
      (s.env.busy = [] → s.cfg.assumePanelLive = true →
        exec .epdPowerUpIfNeeded s = .next (State.returned 0x11#8 .ok s.railUp.programmed)) ∧
      (∀ (before missed during : Nat) (rest : List Bool),
        s.env.busy =
          List.replicate before s.cfg.busyActive ++ (!s.cfg.busyActive) ::
            (List.replicate missed (!s.cfg.busyActive) ++ s.cfg.busyActive ::
              (List.replicate during s.cfg.busyActive ++ (!s.cfg.busyActive) :: rest)) →
        exec .epdPowerUpIfNeeded s = .next (State.returned 0x11#8 .ok
          { s.railUp.programmed with env := { s.env with busy := rest } })) ∧
      (s.env.busy = [] → s.cfg.assumePanelLive = false →
        exec .epdPowerUpIfNeeded s = .next
          (match s.railUp.freeFrom8 with
            | (some w, t) => { t with hostPos := .busyWait w .command }
            | (none, t) => t.returned 0x11#8 .ok)) ∧
      ∀ before missed : Nat, s.cfg.assumePanelLive = false →
        s.env.busy =
          List.replicate before s.cfg.busyActive ++ (!s.cfg.busyActive) ::
            List.replicate missed (!s.cfg.busyActive) →
        exec .epdPowerUpIfNeeded s = .next
          (match State.freeFrom11 { s.railUp.powerOnSent with env := { s.env with busy := [] } } with
            | (some w, t) => { t with hostPos := .busyWait w .command }
            | (none, t) => t.returned 0x11#8 .ok))) ∧
  ∀ (s : State) (wait : BusyWait), s.HeldQuiet → s.hostPos = .busyWait wait .command → s.env.busy = [] →
    paramsOk s.cfg = true → s.epd.spiConnected = true →
    (s.cfg.assumePanelLive = true → step s = .next (State.returned 0x11#8 .ok (s.programmedFrom wait))) ∧
    (s.cfg.assumePanelLive = false →
      step s = .next
        (match s.freeFrom wait with
          | (some w, t) => { t with hostPos := .busyWait w .command }
          | (none, t) => t.returned 0x11#8 .ok))

/-- EPD_SHUTDOWN (R86): an unpowered panel is left alone; a powered one is sent its table, drained, disconnected,
and every line takes its off level. -/
def Obligations.ShutdownPowersThePanelDown : Prop :=
  ∀ s : State, s.Quiet →
    (s.epd.epdPowered = false → exec .epdShutdown s = .next (s.returned 0x12#8 .ok)) ∧
    (s.epd.epdPowered = true → s.epd.spiConnected = true → s.ShifterReady → paramsOk s.cfg = true →
      exec .epdShutdown s = .next (s.shutDown.returned 0x12#8 .ok) ∧
      s.shutDown.epd.spiBusy = false ∧ s.shutDown.epd.spiConnected = false ∧
      s.shutDown.epd.pinLinesLow = true ∧ s.shutDown.epd.pinRst = false ∧
      s.shutDown.epd.pinCsM = false ∧ s.shutDown.epd.pinPwr = s.cfg.pwrOffLevel ∧
      s.shutDown.epd.epdPowered = false ∧ s.shutDown.epd.streamIdx = 0)

/-- EPD_START_TRANSFER (R87), its busy waits ending at once (the model's choice, log entry 7): the panel is powered if
needed, the start command of the plane is sent, and the byte count starts again. At the busy waits of a panel that is not
live it stays as power-up does (R114), and the step after that goes on from there. -/
def Obligations.StartTransferSelectsThePlane : Prop :=
  (∀ (s : State) (isAccent : Bool), s.Quiet → s.env.busy = [] → paramsOk s.cfg = true → s.ShifterReady →
    (s.epd.epdPowered = true → s.epd.spiConnected = true) →
    (s.cfg.assumePanelLive = true →
      exec (.epdStartTransfer isAccent) s = .next (State.returned 0x13#8 .ok (s.transferStarted isAccent))) ∧
    (s.epd.epdPowered = true →
      exec (.epdStartTransfer isAccent) s = .next (State.returned 0x13#8 .ok (s.startSent isAccent))) ∧
    (s.epd.epdPowered = false → s.cfg.assumePanelLive = false →
      exec (.epdStartTransfer isAccent) s = .next
        (match s.railUp.freeFrom8 with
          | (some w, t) => { t with hostPos := .busyWait w (.startTransfer isAccent) }
          | (none, t) => (t.startSent isAccent).returned 0x13#8 .ok))) ∧
  ∀ (s : State) (isAccent : Bool) (wait : BusyWait), s.HeldQuiet →
    s.hostPos = .busyWait wait (.startTransfer isAccent) → s.env.busy = [] → paramsOk s.cfg = true →
    s.epd.spiConnected = true →
    (s.cfg.assumePanelLive = true →
      step s = .next (State.returned 0x13#8 .ok ((s.programmedFrom wait).startSent isAccent))) ∧
    (s.cfg.assumePanelLive = false →
      step s = .next
        (match s.freeFrom wait with
          | (some w, t) => { t with hostPos := .busyWait w (.startTransfer isAccent) }
          | (none, t) => (t.startSent isAccent).returned 0x13#8 .ok))

/-- EPD_SEND_BYTE (R80, R88): the byte before it leaves first, the byte is handed to the controllers its index is
routed to, with one controller to the master, and the count moves on; the byte itself may still be in the shifter. -/
def Obligations.SendByteHandsOverOneByte : Prop :=
  ∀ (s : State) (b : Byte), s.Quiet → s.epd.epdPowered = true → s.epd.spiConnected = true → s.ShifterReady →
    exec (.epdSendByte b) s = .next (State.returned 0x14#8 .ok
      { s.drained with
        epd := { s.epd with
                  spiHold := some (streamRoute s.cfg s.epd.streamIdx, .data, b), spiBusy := true,
                  streamIdx := s.epd.streamIdx + 1 } }) ∧
    (s.cfg.numCtrl = 1 → streamRoute s.cfg s.epd.streamIdx = .m)

/-- EPD_REFRESH_AND_SLEEP (R89) over `busy` busy readings and then a clear one: one sleep and one code for each
reading, the scaled minimum of the codes, and the shutdown. Past the given readings of a panel that is not live the level is
free, and where it reads busy the host stays in the loop with the minimum so far (R114); the step after that goes on with
it, and stays again or ends the command, and the draw that issued it where one did. That past the given readings a live panel
reads clear at once, and that a step ends at the first such reading of one that is not live, is the model's choice, log
entry 7. -/
def Obligations.RefreshTracksTheMinimumCode : Prop :=
  (∀ (s : State) (vs more : List U16) (busy : Nat) (low : U16),
    s.Quiet → s.epd.epdPowered = true → s.epd.spiConnected = true → s.ShifterReady → paramsOk s.cfg = true →
    s.env.adc = vs ++ more → vs.length = busy + 1 → low ∈ vs → (∀ v ∈ vs, low.toNat ≤ v.toNat) →
    (∀ rest : List Bool, s.env.busy = List.replicate busy s.cfg.busyActive ++ (!s.cfg.busyActive) :: rest →
      exec .epdRefreshAndSleep s = .next (State.returned 0x15#8 .ok
        (let sent := s.tableSent (panelTable s.cfg s.cfg.tableRefresh)
        State.refreshEnded low
          { sent with
            env := { s.env with busy := rest, adc := more },
            trace := sent.trace ++ refreshEvents vs }))) ∧
    (s.env.busy = List.replicate busy s.cfg.busyActive → s.cfg.assumePanelLive = false →
      exec .epdRefreshAndSleep s = .next
        (let sent := s.tableSent (panelTable s.cfg s.cfg.tableRefresh)
        let read :=
          { sent with
            env := { s.env with busy := [], adc := more, draws := s.env.draws + 1 },
            trace := sent.trace ++ refreshEvents vs }
        if s.freeLevel = s.cfg.busyActive then { read with hostPos := .refreshPoll low .command }
        else State.returned 0x15#8 .ok (State.refreshEnded low read)))) ∧
  ∀ (s : State) (m v : U16) (vs : List U16) (caller : RefreshCaller), s.HeldQuiet →
    s.hostPos = .refreshPoll m caller → s.epd.epdPowered = true → s.epd.spiConnected = true → paramsOk s.cfg = true →
    s.env.adc = v :: vs → s.env.busy = [] →
    (s.cfg.assumePanelLive = true →
      step s = .next
        (let ended := State.refreshEnded (if v.toNat < m.toNat then v else m)
          { s with env := { s.env with adc := vs }, trace := s.trace ++ refreshEvents [v] }
        match caller with
        | .command => ended.returned 0x15#8 .ok
        | .drawImage => (ended.nestedReturn 0x15#8 .ok).returned 0x20#8 .ok
        | .drawScreen => (ended.nestedReturn 0x15#8 .ok).returned 0x21#8 .ok)) ∧
    (s.cfg.assumePanelLive = false →
      step s = .next
        (let low := if v.toNat < m.toNat then v else m
        let read :=
          { s with
            env := { s.env with adc := vs, draws := s.env.draws + 1 },
            trace := s.trace ++ refreshEvents [v] }
        if s.freeLevel = s.cfg.busyActive then { read with hostPos := .refreshPoll low caller }
        else
          match caller with
          | .command => (State.refreshEnded low read).returned 0x15#8 .ok
          | .drawImage => ((State.refreshEnded low read).nestedReturn 0x15#8 .ok).returned 0x20#8 .ok
          | .drawScreen => ((State.refreshEnded low read).nestedReturn 0x15#8 .ok).returned 0x21#8 .ok))

/-! ### The draw client -/

/-- The seven compositing primitives outside a draw-screen callback are refused with their word (R45). -/
def Obligations.PrimitivesRunOnlyInACallback : Prop :=
  ∀ (i : Instr) (s : State), i.drawOnly = true → s.Quiet → s.draw.drawing = false →
    exec i s = .next (s.refusedWith (.notInDraw (encode i)))

/-- CLIENT_SET_WINDOW_X (R97). -/
def Obligations.SetWindowXMovesTheCursor : Prop :=
  ∀ (s : State) (start width : BitVec 12), s.Quiet → s.draw.drawing = true →
    exec (.clientSetWindowX start width) s = .next (State.returned 0x22#8 .ok
      { s with
        draw := { s.draw with
                  winX0 := some (BitVec.ofNat 16 start.toNat),
                  winX1 := some (BitVec.ofNat 16 (start.toNat + width.toNat)),
                  curX := some (BitVec.ofNat 16 start.toNat) } })

/-- CLIENT_SET_WINDOW_Y (R98): the window, whether it misses the chunk, and where it meets the chunk the first row
and the buffer offset; it misses the chunk exactly when no line is in both. -/
def Obligations.SetWindowYTestsTheChunk : Prop :=
  ∀ (s : State) (start height : BitVec 12) (top x : U16), s.Quiet → s.draw.drawing = true →
    s.cfg.packedPlanes = false → s.draw.chunkStartY = some top → s.draw.curX = some x →
    1 ≤ s.cfg.linesPerChunk →
    exec (.clientSetWindowY start height) s =
      .next (State.returned 0x23#8 .ok (s.windowYSet start.toNat height.toNat top x)) ∧
    (windowOutside s.cfg start.toNat height.toNat top.toNat = true ↔
      ¬∃ y, start.toNat ≤ y ∧ y < start.toNat + height.toNat ∧ top.toNat ≤ y ∧
        y < top.toNat + s.cfg.linesPerChunk)

/-- CLIENT_LOAD_RAW_BITMAP (R99, R54, R96): a colour byte without a meaning is refused; otherwise the bitmap's set bits
that are visible are inked and nothing else of the buffer changes, and the colour, the windows and the cursor are the
argument block's. -/
def Obligations.LoadRawBitmapInksItsBits : Prop :=
  (∀ (s : State) (a : U16) (xl xh yl yh col wl wh hl hh : Byte), s.Quiet → s.draw.drawing = true →
    s.HostHolds a.toNat [xl, xh, yl, yh, col, wl, wh, hl, hh] → 1 < col.toNat →
    exec (.clientLoadRawBitmap a) s =
      .next (s.refusedWith (.reservedOperand (encode (.clientLoadRawBitmap a))))) ∧
  ∀ (s : State) (a : U16) (xl xh yl yh col wl wh hl hh : Byte) (rows : List Byte) (c : Plane) (x y w h : Nat)
      (top : U16) (pass : Plane),
    s.Quiet → s.draw.drawing = true → s.cfg.packedPlanes = false → s.ChunkFilled →
    s.cfg.screenW ≤ s.cfg.bytesPerLine * 8 → s.draw.chunkStartY = some top → s.draw.passPlane = some pass →
    s.HostHolds a.toNat ([xl, xh, yl, yh, col, wl, wh, hl, hh] ++ rows) →
    x = xl.toNat + 256 * xh.toNat → y = yl.toNat + 256 * yh.toNat → w = wl.toNat + 256 * wh.toNat →
    h = hl.toNat + 256 * hh.toNat → rows.length = h * ((w + 7) / 8) →
    (col = 0#8 ∧ c = .mono ∨ col = 1#8 ∧ c = .accent) →
    ∃ t,
      exec (.clientLoadRawBitmap a) s = .next t ∧
      Composited
        (fun px py => ∃ r k b, r < h ∧ k < w ∧ px = x + k ∧ py = y + r ∧
          rows[r * ((w + 7) / 8) + k / 8]? = some b ∧ b.getLsbD (7 - k % 8) = true) s t ∧
      ∃ scratch, t = State.returned 0x24#8 .ok
        (let set := State.windowYSet y h top (toU16 x)
          (State.windowXSet x w { s with draw := { s.draw with color := some c } })
        { set with draw := { set.draw with scratch := scratch } })

/-- CLIENT_PRINT_BEGIN (R100, R54): a text run opens with the block's position, direction, size and colour; a
direction or colour byte without a meaning is refused. -/
def Obligations.PrintBeginOpensATextRun : Prop :=
  ∀ (s : State) (a : U16) (xl xh yl yh dir size col : Byte), s.Quiet → s.draw.drawing = true →
    s.HostHolds a.toNat [xl, xh, yl, yh, dir, size, col] →
    (∀ (d : Direction) (c : Plane), (dir = 0#8 ∧ d = .horizontal ∨ dir = 1#8 ∧ d = .vertical) →
      (col = 0#8 ∧ c = .mono ∨ col = 1#8 ∧ c = .accent) →
      exec (.clientPrintBegin a) s = .next (State.returned 0x25#8 .ok
        { s with
          draw := { s.draw with
                    curX := some (xh ++ xl), curY := some (yh ++ yl), direction := some d,
                    fontSize := some size, color := some c, printing := true } })) ∧
    (1 < dir.toNat ∨ 1 < col.toNat →
      exec (.clientPrintBegin a) s = .next (s.refusedWith (.reservedOperand (encode (.clientPrintBegin a)))))

/-- CLIENT_WRITE_CHAR (R101, R96): the glyph's visible set bits are inked at the cursor, upright or turned 90°
clockwise, and the cursor moves on by 10; without an open text run it is refused. -/
def Obligations.WriteCharInksTheGlyph : Prop :=
  ∀ (s : State) (ch : Byte), s.Quiet → s.draw.drawing = true →
    (s.draw.printing = false → exec (.clientWriteChar ch) s = .next (s.refusedWith .notPrinting)) ∧
    ∀ (size : Byte) (x y top : U16) (c pass : Plane),
      s.draw.printing = true → s.cfg.packedPlanes = false → s.ChunkFilled →
      s.cfg.screenW ≤ s.cfg.bytesPerLine * 8 → s.draw.chunkStartY = some top → s.draw.passPlane = some pass →
      s.draw.color = some c → s.draw.fontSize = some size → s.draw.curX = some x → s.draw.curY = some y →
      (s.draw.direction = some .horizontal →
        ∃ t,
          exec (.clientWriteChar ch) s = .next t ∧
          Composited
            (fun px py => ∃ r k, r < 16 ∧ k < 10 ∧ px = x.toNat + k ∧ py = y.toNat + r ∧
              (glyph s.cfg size ch).getLsbD (r * 10 + k) = true) s t ∧
          ∃ scratch, t = State.returned 0x26#8 .ok
            (let set := State.windowYSet y.toNat 16 top x
              { s with draw := { s.draw with winX0 := some x, winX1 := some (x + 10#16) } }
            { set with draw := { set.draw with curX := some (x + 10#16), scratch := scratch } })) ∧
      (s.draw.direction = some .vertical →
        ∃ t,
          exec (.clientWriteChar ch) s = .next t ∧
          Composited
            (fun px py => ∃ r k, r < 16 ∧ k < 10 ∧ px = x.toNat + 15 - r ∧ py = y.toNat + k ∧
              (glyph s.cfg size ch).getLsbD (r * 10 + k) = true) s t ∧
          ∃ scratch, t = State.returned 0x26#8 .ok
            (let set := State.windowYSet y.toNat 10 top x
              { s with draw := { s.draw with winX0 := some x, winX1 := some (x + 16#16) } }
            { set with draw := { set.draw with curY := some (y + 10#16), scratch := scratch } }))

/-- CLIENT_PRINT_END (R102). -/
def Obligations.PrintEndClosesTheTextRun : Prop :=
  ∀ s : State, s.Quiet → s.draw.drawing = true →
    exec .clientPrintEnd s =
      .next (State.returned 0x27#8 .ok { s with draw := { s.draw with printing := false } })

/-- CLIENT_PRINT_BARCODE (R103, R54, R96): the visible set modules are inked in the monochrome plane from the
block's column on, each `P_BARCODE_HEIGHT` rows high. -/
def Obligations.PrintBarcodeInksItsModules : Prop :=
  ∀ (s : State) (a : U16) (xl xh yl yh n : Byte) (str : List Byte) (bars : List Bool) (x y : Nat) (top : U16)
      (pass : Plane),
    s.Quiet → s.draw.drawing = true → s.cfg.packedPlanes = false → s.ChunkFilled →
    s.cfg.screenW ≤ s.cfg.bytesPerLine * 8 → s.draw.chunkStartY = some top → s.draw.passPlane = some pass →
    s.HostHolds a.toNat ([xl, xh, yl, yh, n] ++ str) → str.length = n.toNat →
    x = xl.toNat + 256 * xh.toNat → y = yl.toNat + 256 * yh.toNat → bars = barcodeBars s.cfg str →
    ∃ t,
      exec (.clientPrintBarcode a) s = .next t ∧
      Composited
        (fun px py => ∃ j r, r < s.cfg.barcodeHeight ∧ px = x + j ∧ py = y + r ∧ bars[j]? = some true) s t ∧
      ∃ scratch, t = State.returned 0x28#8 .ok
        (let set := State.windowYSet y s.cfg.barcodeHeight top (toU16 x)
          (State.windowXSet x bars.length { s with draw := { s.draw with color := some .mono } })
        { set with draw := { set.draw with scratch := scratch } })

/-- `OrPixel(x, y)` (R96): a pixel that is not visible changes nothing; a visible one ORs its mask into its byte,
or raises `F_SCRATCH_OVERFLOW` where the offset lies past the buffer. -/
def Obligations.OrPixelInksOneVisiblePixel : Prop :=
  ∀ (s : State) (x y : Nat) (c pass : Plane) (x0 x1 y0 y1 top : U16), s.Quiet →
    s.draw.color = some c → s.draw.passPlane = some pass → s.draw.winX0 = some x0 → s.draw.winX1 = some x1 →
    s.draw.winY0 = some y0 → s.draw.winY1 = some y1 → s.draw.chunkStartY = some top →
    (¬s.visible x y → (orPixel x y).run s = .ok () s) ∧
    (s.visible x y →
      ∀ o, o = x / 8 + (y - top.toNat) * s.cfg.bytesPerLine +
          (if s.cfg.packedPlanes = true ∧ c = .accent then s.cfg.planeBias else 0) →
        (s.cfg.scratchSize ≤ o → (orPixel x y).run s = .error (.fault (.scratchOverflow o)) s) ∧
        ∀ b, o < s.cfg.scratchSize → s.draw.scratch.read o = some b →
          (orPixel x y).run s =
            .ok () { s with
              draw := { s.draw with scratch := s.draw.scratch.write o (b ||| (0x80#8 >>> (x % 8))) } })

/-- `StreamChunk()` (R93): every byte of the chunk, in order, is repacked for the pass's plane and each byte it is
repacked to is sent by an EPD_SEND_BYTE command of its own. -/
def Obligations.StreamChunkSendsRepackedBytes : Prop :=
  ∀ (s : State) (plane : Plane) (bytes : List Byte), s.Quiet → s.epd.epdPowered = true →
    s.epd.spiConnected = true → s.ShifterReady → s.draw.passPlane = some plane →
    chunkBytes s.cfg ≤ s.cfg.scratchSize → bytes.length = chunkBytes s.cfg →
    (∀ i, i < bytes.length → s.draw.scratch.read i = bytes[i]?) →
    streamChunk.run s =
      .ok () ((bytes.flatMap (repack s.cfg plane)).foldl
        (fun t b => (t.byteStreamed b).nestedReturn 0x14#8 .ok) s)

/-- CLIENT_DRAW_IMAGE of an unsupported tag (R94): the tag is read and logged, and the panel and the draw context
are left alone; packed planes are refused before FLASH is read. -/
def Obligations.UnsupportedImageIsOnlyLogged : Prop :=
  ∀ (s : State) (addr : U24) (tag : Byte), s.Quiet →
    (s.cfg.packedPlanes = true → exec (.clientDrawImage addr) s = .next (s.refusedWith .unmodelledConfig)) ∧
    (s.cfg.packedPlanes = false → tag = flashRead s.env addr → tag ≠ s.cfg.type1bpp → tag ≠ s.cfg.type2bpp →
      exec (.clientDrawImage addr) s = .next (State.returned 0x20#8 .unsupportedImage
        { s with trace := s.trace ++ [.flashRead addr 1, .log .unsupportedImage [tag]] }))

/-- CLIENT_DRAW_IMAGE of a supported tag on a live panel, whose busy waits end at once (the model's choice, log entry
7), completes (R92, R93, R94). The draw context starts from R92's values, with every scratch cell UNSET (R39). On the panel's
bus stand, in order and nothing else: the byte in flight, power-up if needed, for each pass the start command of its plane and
the plane's bytes of FLASH from the byte after the tag on, repacked and routed, or zeros repacked in a dummy pass, the refresh
table and the power-down table. FLASH is read chunk by chunk, the two planes one after the other, and the last chunk stays in
the scratch buffer. The refresh keeps its one code as `postRefreshBatt` and re-powers the baseline. The radio half and HOST are
left alone. On a panel that is not live, whose levels are free past the given readings, the draw stays at a busy wait of
power-up or in the refresh loop, or completes (R114). A draw that stood at a busy wait of power-up goes on from there, of a
live panel and of one that is not. -/
def Obligations.DrawImageStreamsThePlanes : Prop :=
  (∀ s : State, s.Quiet →
    drawCtxReset.run s = .ok () { s with
      draw :=
        { scratch := [], curX := some 0#16, curY := some 0#16, winX0 := some 0#16,
          winX1 := some (BitVec.ofNat 16 s.cfg.screenW), winY0 := some 0#16,
          winY1 := some (BitVec.ofNat 16 s.cfg.screenH), winDrawY := none, color := some .mono,
          passPlane := some .mono, chunkIdx := some 0, chunkStartY := some 0#16, fontSize := some 1#8,
          direction := some .horizontal, bufIdx := none, flashPtr := none, drawing := s.draw.drawing,
          printing := false, winOutside := none } }) ∧
  (∀ (s : State) (addr : U24) (tag : Byte) (planes : Nat) (first second : List Byte)
      (accentPass : Bool), s.Quiet → s.cfg.packedPlanes = false →
    paramsOk s.cfg = true → s.cfg.assumePanelLive = true → s.env.busy = [] → s.ShifterReady →
    (s.epd.epdPowered = true → s.epd.spiConnected = true) → tag = flashRead s.env addr →
    (tag = s.cfg.type2bpp ∧ planes = 2 ∨ tag = s.cfg.type1bpp ∧ tag ≠ s.cfg.type2bpp ∧ planes = 1) →
    first = planeBytes s (addr + 1#24) →
    second = (if planes = 2 then planeBytes s (addr + 1#24 + BitVec.ofNat 24 first.length) else zeroBytes s) →
    accentPass = (decide (planes = 2) || s.cfg.alwaysBothPasses) →
    ∃ t ev, exec (.clientDrawImage addr) s = .next t ∧
      t = State.returned 0x20#8 .ok (s.imageDrawn addr (decide (planes = 2))) ∧
      t.trace = s.trace ++ ev ∧
      panelSent ev = s.drawBytes
        (passBytes s.cfg .mono first ++ (if accentPass = true then passBytes s.cfg .accent second else [])) ∧
      flashReads ev = (addr, 1) :: (List.range (planes * s.cfg.numChunks)).map (fun j =>
        (addr + 1#24 + BitVec.ofNat 24 (j * chunkBytes s.cfg), chunkBytes s.cfg)) ∧
      sentBytes ev =
        (if accentPass = true then 2 else 1) * s.cfg.numChunks * chunkBytes s.cfg * s.cfg.nativeBpp ∧
      ev.count .baselineRepower = 1 ∧ t.epd.postRefreshBatt = some (adcScale s.cfg s.nextCode.1) ∧
      t.env = s.nextCode.2 ∧ t.epd.epdPowered = false ∧ t.epd.spiBusy = false ∧
      (∃ scratch, t.draw = { s.ctxReset.draw with
          passPlane := some (if accentPass = true then .accent else .mono),
          chunkIdx := some (s.cfg.numChunks - 1),
          chunkStartY := some (BitVec.ofNat 16 ((s.cfg.numChunks - 1) * s.cfg.linesPerChunk)),
          flashPtr := some (addr + 1#24 + BitVec.ofNat 24 (planes * s.cfg.numChunks * chunkBytes s.cfg)),
          scratch := scratch } ∧
        ∀ o, scratch.read o =
          if o < chunkBytes s.cfg then
            (if accentPass = true then second else first)[(s.cfg.numChunks - 1) * chunkBytes s.cfg + o]?
          else none) ∧
      t.faultMark = s.faultMark ∧ t.refuseMark = s.refuseMark ∧ t.res.status = some .ok ∧ t.hostPos = .idle ∧
      t.radio = s.radio ∧ t.arb = s.arb ∧ t.ring = s.ring ∧ t.irq = s.irq ∧ t.xreg = s.xreg ∧
      t.hostMem = s.hostMem ∧ t.cfg = s.cfg) ∧
  (∀ (s : State) (addr : U24) (tag : Byte), s.Quiet → s.cfg.packedPlanes = false → paramsOk s.cfg = true →
    s.cfg.assumePanelLive = false → s.env.busy = [] → s.ShifterReady →
    (s.epd.epdPowered = true → s.epd.spiConnected = true) → tag = flashRead s.env addr →
    (tag = s.cfg.type2bpp ∨ tag = s.cfg.type1bpp) →
    exec (.clientDrawImage addr) s = .next (s.imageDrawnFree addr (decide (tag = s.cfg.type2bpp)))) ∧
  ∀ (s : State) (twoPlanes : Bool) (p : Plane) (wait : BusyWait) (ptr : U24), s.HeldQuiet →
    s.hostPos = .busyWait wait (.drawImage twoPlanes p) → s.env.busy = [] →
    paramsOk s.cfg = true → s.epd.spiConnected = true → s.draw.passPlane = some p → s.draw.flashPtr = some ptr →
    (s.cfg.assumePanelLive = true →
      step s = .next (State.returned 0x20#8 .ok
        ((((s.programmedFrom wait).startSent (isAccent p)).nestedReturn 0x13#8 .ok).imageFrom twoPlanes p))) ∧
    (s.cfg.assumePanelLive = false →
      step s = .next
        (State.startOrStay (.drawImage twoPlanes p) p id (State.imageFreeFrom twoPlanes p) (s.freeFrom wait)))

/-- CLIENT_DRAW_SCREEN (R92, R93, R95): packed planes are refused. On a live panel, whose busy waits end at once (the
model's choice, log entry 7): a callback whose first word is another command is refused with it; a callback whose every word
is a window or an end of a text run completes, and on the panel's bus stand, in order and nothing else, the byte in flight,
power-up if needed, for each of the two passes the start command of its plane and its zero bytes repacked and routed, the
refresh table and the power-down table; and any callback whose words all end with a status completes, its words run in order,
once for each scanline of each chunk of each pass, on the chunk that was zeroed, and what they leave there is streamed. On a
panel that is not live, whose levels are free past the given readings, the draw of such a callback stays at a busy wait of
power-up or in the refresh loop, or completes (R114). A draw that stood at a busy wait of power-up goes on from there, of a
live panel and of one that is not. -/
def Obligations.DrawScreenRunsBothPasses : Prop :=
  (∀ (s : State) (cb : Byte), s.Quiet →
    (s.cfg.packedPlanes = true → exec (.clientDrawScreen cb) s = .next (s.refusedWith .unmodelledConfig)) ∧
    (s.cfg.packedPlanes = false → paramsOk s.cfg = true → s.cfg.assumePanelLive = true → s.env.busy = [] →
      s.ShifterReady → (s.epd.epdPowered = true → s.epd.spiConnected = true) →
      (∀ w ws, callbackWords s.cfg cb 0 0 .mono = w :: ws →
        ((opcodeOf w).toNat < 0x22 ∨ 0x28 < (opcodeOf w).toNat) →
        ∃ t, exec (.clientDrawScreen cb) s = .next t ∧ t.refuseMark = some (.badCallback w) ∧
          t.hostPos = .idle ∧ t.res.status = some .ok ∧ t.draw.drawing = true) ∧
      ((∀ y c p, y < s.cfg.screenH → c < s.cfg.numChunks → ∀ w ∈ callbackWords s.cfg cb y c p,
          decode w = .ok .clientPrintEnd ∨ (∃ start width, decode w = .ok (.clientSetWindowX start width)) ∨
            ∃ start height, decode w = .ok (.clientSetWindowY start height)) →
        ∃ t ev, exec (.clientDrawScreen cb) s = .next t ∧ t.trace = s.trace ++ ev ∧
          panelSent ev =
            s.drawBytes (passBytes s.cfg .mono (zeroBytes s) ++ passBytes s.cfg .accent (zeroBytes s)) ∧
          flashReads ev = [] ∧
          sentBytes ev = 2 * s.cfg.numChunks * chunkBytes s.cfg * s.cfg.nativeBpp ∧
          ev.count .baselineRepower = 1 ∧ t.epd.postRefreshBatt = some (adcScale s.cfg s.nextCode.1) ∧
          t.env = s.nextCode.2 ∧ t.epd.epdPowered = false ∧ t.epd.spiBusy = false ∧
          t.draw.drawing = false ∧ t.draw.passPlane = some .accent ∧ t.draw.flashPtr = none ∧
          t.draw.color = some .mono ∧ t.draw.fontSize = some 1#8 ∧ t.draw.direction = some .horizontal ∧
          t.draw.printing = false ∧
          (∀ o, t.draw.scratch.read o = if o < chunkBytes s.cfg then some 0#8 else none) ∧
          t.faultMark = s.faultMark ∧ t.refuseMark = s.refuseMark ∧ t.res.status = some .ok ∧
          t.hostPos = .idle ∧ t.radio = s.radio ∧ t.arb = s.arb ∧ t.ring = s.ring ∧ t.irq = s.irq ∧
          t.xreg = s.xreg ∧ t.hostMem = s.hostMem ∧ t.cfg = s.cfg) ∧
      ∀ t, s.Unmarked → s.screenDrawn cb = some t →
        exec (.clientDrawScreen cb) s = .next (t.returned 0x21#8 .ok)) ∧
    (s.cfg.packedPlanes = false → paramsOk s.cfg = true → s.cfg.assumePanelLive = false → s.env.busy = [] →
      s.ShifterReady → (s.epd.epdPowered = true → s.epd.spiConnected = true) →
      ∀ t, s.Unmarked → s.screenDrawnFree cb = some t → exec (.clientDrawScreen cb) s = .next t)) ∧
  ∀ (s t : State) (cb : Byte) (p : Plane) (wait : BusyWait), s.HeldQuiet →
    s.hostPos = .busyWait wait (.drawScreen cb p) → s.env.busy = [] →
    paramsOk s.cfg = true → s.epd.spiConnected = true → s.draw.passPlane = some p →
    (s.cfg.assumePanelLive = true →
      State.screenFrom cb p (((s.programmedFrom wait).startSent (isAccent p)).nestedReturn 0x13#8 .ok) = some t →
      step s = .next (t.returned 0x21#8 .ok)) ∧
    (s.cfg.assumePanelLive = false →
      State.startOrStay (.drawScreen cb p) p some (State.screenFreeFrom cb p) (s.freeFrom wait) = some t →
      step s = .next t)

/-! ### Frames under every schedule -/

/-- Whatever the schedule puts among its lines, a radio command leaves the draw client alone, and of the display
engine only the byte in the shifter may leave; and only RADIO_RECEIVE writes HOST, from its operand's address on. -/
def Obligations.RadioCommandsLeaveTheDisplay : Prop :=
  ∀ (i : Instr) (s t : State), i.ofRadio = true → exec i s = .next t →
    t.draw = s.draw ∧ t.epd = { s.epd with spiBusy := t.epd.spiBusy } ∧
      (t.epd.spiBusy = true → s.epd.spiBusy = true) ∧
      ∀ a, (∀ dst : U16, i = .radioReceive dst → a < dst.toNat ∨ dst.toNat + 255 < a) →
        t.hostMem.read a = s.hostMem.read a

/-- Whatever the schedule puts among its lines, a display or draw command leaves the radio flags but
`irqRaisedRx`, the shadow registers, HOST, the transmit state the command owns and the link results alone. -/
def Obligations.DisplayCommandsLeaveTheRadio : Prop :=
  ∀ (i : Instr) (s t : State), i.ofRadio = false → exec i s = .next t →
    t.radio = { s.radio with irqRaisedRx := t.radio.irqRaisedRx } ∧ t.xreg = s.xreg ∧ t.hostMem = s.hostMem ∧
      t.ring.readIdx = s.ring.readIdx ∧ t.arb.rxEnabled = s.arb.rxEnabled ∧ t.arb.txFrame = s.arb.txFrame ∧
      t.arb.txMinBatt = s.arb.txMinBatt ∧ t.res.value = s.res.value ∧ t.res.lqi = s.res.lqi ∧
      t.res.rssi = s.res.rssi

/-- A compositing primitive never erases (R96): under every schedule, every bit that was set in the scratch buffer
is set after it, and no written cell loses its value. -/
def Obligations.PrimitivesNeverEraseInk : Prop :=
  ∀ (i : Instr) (s t : State), i.drawOnly = true → exec i s = .next t →
    ∀ o b, s.draw.scratch.read o = some b → ∃ b', t.draw.scratch.read o = some b' ∧ b ||| b' = b'

/-! ### Invariants -/

/-- Every step keeps every byte space in canonical form and inside its bounds (R22, R23). -/
def Obligations.StepKeepsMemoriesOk : Prop :=
  ∀ s t : State, s.MemoriesOk → step s = .next t → t.MemoriesOk

/-- Every step keeps `txPowerIdx` in 0..20 and `freeCount` in 0..3 (R10, R13). And every step that does not end the run
leaves interrupts on and no callback running, and the host at no line inside a command but a hold: the spec's own steps, which
are single lines (R6), do turn interrupts off and run callbacks (R34, R45, R95), but a step of the model is a whole command or
its run to a hold, which is the model's choice, log entry 6. -/
def Obligations.StepKeepsRangesAndSections : Prop :=
  ∀ s t : State, s.RangesOk → s.SectionsClosed → step s = .next t → t.RangesOk ∧ t.SectionsClosed

/-- Every step keeps the arbiter's state machine (R11, R65): the RX DMA is armed in the RX state, and the TX state
is RADIO_TRANSMIT's alone. -/
def Obligations.StepKeepsTheArbiter : Prop :=
  ∀ s t : State, s.ArbiterOk → step s = .next t → t.ArbiterOk

/-- Every step keeps the panel's bus (R81, R86): no run shifts a byte while the bus is not connected. -/
def Obligations.StepNeverShiftsDisconnected : Prop :=
  ∀ s t : State, s.BusOk → step s = .next t → t.BusOk

/-- Steps only ever append to the trace, and none changes the parameter record (R1, R21). -/
def Obligations.StepAppendsToTheTrace : Prop :=
  ∀ s t : State, step s = .next t → t.cfg = s.cfg ∧ ∃ ev, t.trace = s.trace ++ ev
end

