-- ==== Sys2Proof/Laws/State.lean ====
section
/-! SUPPORT. One lemma per field per update of the state, each true by definition. -/

namespace Sys2Proof.Machine

variable (s : State)

/-! ### `State.onEnv` -/

@[simp] theorem State.onEnv_cfg (f : Env → Env) : (s.onEnv f).cfg = s.cfg := rfl
@[simp] theorem State.onEnv_env (f : Env → Env) : (s.onEnv f).env = f s.env := rfl
@[simp] theorem State.onEnv_started (f : Env → Env) : (s.onEnv f).started = s.started := rfl
@[simp] theorem State.onEnv_hostQueue (f : Env → Env) : (s.onEnv f).hostQueue = s.hostQueue := rfl
@[simp] theorem State.onEnv_hostPos (f : Env → Env) : (s.onEnv f).hostPos = s.hostPos := rfl
@[simp] theorem State.onEnv_radio (f : Env → Env) : (s.onEnv f).radio = s.radio := rfl
@[simp] theorem State.onEnv_arb (f : Env → Env) : (s.onEnv f).arb = s.arb := rfl
@[simp] theorem State.onEnv_ring (f : Env → Env) : (s.onEnv f).ring = s.ring := rfl
@[simp] theorem State.onEnv_xreg (f : Env → Env) : (s.onEnv f).xreg = s.xreg := rfl
@[simp] theorem State.onEnv_irq (f : Env → Env) : (s.onEnv f).irq = s.irq := rfl
@[simp] theorem State.onEnv_res (f : Env → Env) : (s.onEnv f).res = s.res := rfl
@[simp] theorem State.onEnv_faultMark (f : Env → Env) : (s.onEnv f).faultMark = s.faultMark := rfl
@[simp] theorem State.onEnv_refuseMark (f : Env → Env) : (s.onEnv f).refuseMark = s.refuseMark := rfl
@[simp] theorem State.onEnv_hostMem (f : Env → Env) : (s.onEnv f).hostMem = s.hostMem := rfl
@[simp] theorem State.onEnv_epd (f : Env → Env) : (s.onEnv f).epd = s.epd := rfl
@[simp] theorem State.onEnv_draw (f : Env → Env) : (s.onEnv f).draw = s.draw := rfl
@[simp] theorem State.onEnv_trace (f : Env → Env) : (s.onEnv f).trace = s.trace := rfl

/-! ### `State.onRadio` -/

@[simp] theorem State.onRadio_cfg (f : RadioFlags → RadioFlags) : (s.onRadio f).cfg = s.cfg := rfl
@[simp] theorem State.onRadio_env (f : RadioFlags → RadioFlags) : (s.onRadio f).env = s.env := rfl
@[simp] theorem State.onRadio_started (f : RadioFlags → RadioFlags) : (s.onRadio f).started = s.started := rfl
@[simp] theorem State.onRadio_hostQueue (f : RadioFlags → RadioFlags) : (s.onRadio f).hostQueue = s.hostQueue := rfl
@[simp] theorem State.onRadio_hostPos (f : RadioFlags → RadioFlags) : (s.onRadio f).hostPos = s.hostPos := rfl
@[simp] theorem State.onRadio_radio (f : RadioFlags → RadioFlags) : (s.onRadio f).radio = f s.radio := rfl
@[simp] theorem State.onRadio_arb (f : RadioFlags → RadioFlags) : (s.onRadio f).arb = s.arb := rfl
@[simp] theorem State.onRadio_ring (f : RadioFlags → RadioFlags) : (s.onRadio f).ring = s.ring := rfl
@[simp] theorem State.onRadio_xreg (f : RadioFlags → RadioFlags) : (s.onRadio f).xreg = s.xreg := rfl
@[simp] theorem State.onRadio_irq (f : RadioFlags → RadioFlags) : (s.onRadio f).irq = s.irq := rfl
@[simp] theorem State.onRadio_res (f : RadioFlags → RadioFlags) : (s.onRadio f).res = s.res := rfl
@[simp] theorem State.onRadio_faultMark (f : RadioFlags → RadioFlags) : (s.onRadio f).faultMark = s.faultMark := rfl
@[simp] theorem State.onRadio_refuseMark (f : RadioFlags → RadioFlags) : (s.onRadio f).refuseMark = s.refuseMark := rfl
@[simp] theorem State.onRadio_hostMem (f : RadioFlags → RadioFlags) : (s.onRadio f).hostMem = s.hostMem := rfl
@[simp] theorem State.onRadio_epd (f : RadioFlags → RadioFlags) : (s.onRadio f).epd = s.epd := rfl
@[simp] theorem State.onRadio_draw (f : RadioFlags → RadioFlags) : (s.onRadio f).draw = s.draw := rfl
@[simp] theorem State.onRadio_trace (f : RadioFlags → RadioFlags) : (s.onRadio f).trace = s.trace := rfl

/-! ### `State.onArb` -/

@[simp] theorem State.onArb_cfg (f : Arbiter → Arbiter) : (s.onArb f).cfg = s.cfg := rfl
@[simp] theorem State.onArb_env (f : Arbiter → Arbiter) : (s.onArb f).env = s.env := rfl
@[simp] theorem State.onArb_started (f : Arbiter → Arbiter) : (s.onArb f).started = s.started := rfl
@[simp] theorem State.onArb_hostQueue (f : Arbiter → Arbiter) : (s.onArb f).hostQueue = s.hostQueue := rfl
@[simp] theorem State.onArb_hostPos (f : Arbiter → Arbiter) : (s.onArb f).hostPos = s.hostPos := rfl
@[simp] theorem State.onArb_radio (f : Arbiter → Arbiter) : (s.onArb f).radio = s.radio := rfl
@[simp] theorem State.onArb_arb (f : Arbiter → Arbiter) : (s.onArb f).arb = f s.arb := rfl
@[simp] theorem State.onArb_ring (f : Arbiter → Arbiter) : (s.onArb f).ring = s.ring := rfl
@[simp] theorem State.onArb_xreg (f : Arbiter → Arbiter) : (s.onArb f).xreg = s.xreg := rfl
@[simp] theorem State.onArb_irq (f : Arbiter → Arbiter) : (s.onArb f).irq = s.irq := rfl
@[simp] theorem State.onArb_res (f : Arbiter → Arbiter) : (s.onArb f).res = s.res := rfl
@[simp] theorem State.onArb_faultMark (f : Arbiter → Arbiter) : (s.onArb f).faultMark = s.faultMark := rfl
@[simp] theorem State.onArb_refuseMark (f : Arbiter → Arbiter) : (s.onArb f).refuseMark = s.refuseMark := rfl
@[simp] theorem State.onArb_hostMem (f : Arbiter → Arbiter) : (s.onArb f).hostMem = s.hostMem := rfl
@[simp] theorem State.onArb_epd (f : Arbiter → Arbiter) : (s.onArb f).epd = s.epd := rfl
@[simp] theorem State.onArb_draw (f : Arbiter → Arbiter) : (s.onArb f).draw = s.draw := rfl
@[simp] theorem State.onArb_trace (f : Arbiter → Arbiter) : (s.onArb f).trace = s.trace := rfl

/-! ### `State.onRing` -/

@[simp] theorem State.onRing_cfg (f : Ring → Ring) : (s.onRing f).cfg = s.cfg := rfl
@[simp] theorem State.onRing_env (f : Ring → Ring) : (s.onRing f).env = s.env := rfl
@[simp] theorem State.onRing_started (f : Ring → Ring) : (s.onRing f).started = s.started := rfl
@[simp] theorem State.onRing_hostQueue (f : Ring → Ring) : (s.onRing f).hostQueue = s.hostQueue := rfl
@[simp] theorem State.onRing_hostPos (f : Ring → Ring) : (s.onRing f).hostPos = s.hostPos := rfl
@[simp] theorem State.onRing_radio (f : Ring → Ring) : (s.onRing f).radio = s.radio := rfl
@[simp] theorem State.onRing_arb (f : Ring → Ring) : (s.onRing f).arb = s.arb := rfl
@[simp] theorem State.onRing_ring (f : Ring → Ring) : (s.onRing f).ring = f s.ring := rfl
@[simp] theorem State.onRing_xreg (f : Ring → Ring) : (s.onRing f).xreg = s.xreg := rfl
@[simp] theorem State.onRing_irq (f : Ring → Ring) : (s.onRing f).irq = s.irq := rfl
@[simp] theorem State.onRing_res (f : Ring → Ring) : (s.onRing f).res = s.res := rfl
@[simp] theorem State.onRing_faultMark (f : Ring → Ring) : (s.onRing f).faultMark = s.faultMark := rfl
@[simp] theorem State.onRing_refuseMark (f : Ring → Ring) : (s.onRing f).refuseMark = s.refuseMark := rfl
@[simp] theorem State.onRing_hostMem (f : Ring → Ring) : (s.onRing f).hostMem = s.hostMem := rfl
@[simp] theorem State.onRing_epd (f : Ring → Ring) : (s.onRing f).epd = s.epd := rfl
@[simp] theorem State.onRing_draw (f : Ring → Ring) : (s.onRing f).draw = s.draw := rfl
@[simp] theorem State.onRing_trace (f : Ring → Ring) : (s.onRing f).trace = s.trace := rfl

/-! ### `State.onXreg` -/

@[simp] theorem State.onXreg_cfg (f : Memory → Memory) : (s.onXreg f).cfg = s.cfg := rfl
@[simp] theorem State.onXreg_env (f : Memory → Memory) : (s.onXreg f).env = s.env := rfl
@[simp] theorem State.onXreg_started (f : Memory → Memory) : (s.onXreg f).started = s.started := rfl
@[simp] theorem State.onXreg_hostQueue (f : Memory → Memory) : (s.onXreg f).hostQueue = s.hostQueue := rfl
@[simp] theorem State.onXreg_hostPos (f : Memory → Memory) : (s.onXreg f).hostPos = s.hostPos := rfl
@[simp] theorem State.onXreg_radio (f : Memory → Memory) : (s.onXreg f).radio = s.radio := rfl
@[simp] theorem State.onXreg_arb (f : Memory → Memory) : (s.onXreg f).arb = s.arb := rfl
@[simp] theorem State.onXreg_ring (f : Memory → Memory) : (s.onXreg f).ring = s.ring := rfl
@[simp] theorem State.onXreg_xreg (f : Memory → Memory) : (s.onXreg f).xreg = f s.xreg := rfl
@[simp] theorem State.onXreg_irq (f : Memory → Memory) : (s.onXreg f).irq = s.irq := rfl
@[simp] theorem State.onXreg_res (f : Memory → Memory) : (s.onXreg f).res = s.res := rfl
@[simp] theorem State.onXreg_faultMark (f : Memory → Memory) : (s.onXreg f).faultMark = s.faultMark := rfl
@[simp] theorem State.onXreg_refuseMark (f : Memory → Memory) : (s.onXreg f).refuseMark = s.refuseMark := rfl
@[simp] theorem State.onXreg_hostMem (f : Memory → Memory) : (s.onXreg f).hostMem = s.hostMem := rfl
@[simp] theorem State.onXreg_epd (f : Memory → Memory) : (s.onXreg f).epd = s.epd := rfl
@[simp] theorem State.onXreg_draw (f : Memory → Memory) : (s.onXreg f).draw = s.draw := rfl
@[simp] theorem State.onXreg_trace (f : Memory → Memory) : (s.onXreg f).trace = s.trace := rfl

/-! ### `State.onIrq` -/

@[simp] theorem State.onIrq_cfg (f : Interrupt → Interrupt) : (s.onIrq f).cfg = s.cfg := rfl
@[simp] theorem State.onIrq_env (f : Interrupt → Interrupt) : (s.onIrq f).env = s.env := rfl
@[simp] theorem State.onIrq_started (f : Interrupt → Interrupt) : (s.onIrq f).started = s.started := rfl
@[simp] theorem State.onIrq_hostQueue (f : Interrupt → Interrupt) : (s.onIrq f).hostQueue = s.hostQueue := rfl
@[simp] theorem State.onIrq_hostPos (f : Interrupt → Interrupt) : (s.onIrq f).hostPos = s.hostPos := rfl
@[simp] theorem State.onIrq_radio (f : Interrupt → Interrupt) : (s.onIrq f).radio = s.radio := rfl
@[simp] theorem State.onIrq_arb (f : Interrupt → Interrupt) : (s.onIrq f).arb = s.arb := rfl
@[simp] theorem State.onIrq_ring (f : Interrupt → Interrupt) : (s.onIrq f).ring = s.ring := rfl
@[simp] theorem State.onIrq_xreg (f : Interrupt → Interrupt) : (s.onIrq f).xreg = s.xreg := rfl
@[simp] theorem State.onIrq_irq (f : Interrupt → Interrupt) : (s.onIrq f).irq = f s.irq := rfl
@[simp] theorem State.onIrq_res (f : Interrupt → Interrupt) : (s.onIrq f).res = s.res := rfl
@[simp] theorem State.onIrq_faultMark (f : Interrupt → Interrupt) : (s.onIrq f).faultMark = s.faultMark := rfl
@[simp] theorem State.onIrq_refuseMark (f : Interrupt → Interrupt) : (s.onIrq f).refuseMark = s.refuseMark := rfl
@[simp] theorem State.onIrq_hostMem (f : Interrupt → Interrupt) : (s.onIrq f).hostMem = s.hostMem := rfl
@[simp] theorem State.onIrq_epd (f : Interrupt → Interrupt) : (s.onIrq f).epd = s.epd := rfl
@[simp] theorem State.onIrq_draw (f : Interrupt → Interrupt) : (s.onIrq f).draw = s.draw := rfl
@[simp] theorem State.onIrq_trace (f : Interrupt → Interrupt) : (s.onIrq f).trace = s.trace := rfl

/-! ### `State.onRes` -/

@[simp] theorem State.onRes_cfg (f : Results → Results) : (s.onRes f).cfg = s.cfg := rfl
@[simp] theorem State.onRes_env (f : Results → Results) : (s.onRes f).env = s.env := rfl
@[simp] theorem State.onRes_started (f : Results → Results) : (s.onRes f).started = s.started := rfl
@[simp] theorem State.onRes_hostQueue (f : Results → Results) : (s.onRes f).hostQueue = s.hostQueue := rfl
@[simp] theorem State.onRes_hostPos (f : Results → Results) : (s.onRes f).hostPos = s.hostPos := rfl
@[simp] theorem State.onRes_radio (f : Results → Results) : (s.onRes f).radio = s.radio := rfl
@[simp] theorem State.onRes_arb (f : Results → Results) : (s.onRes f).arb = s.arb := rfl
@[simp] theorem State.onRes_ring (f : Results → Results) : (s.onRes f).ring = s.ring := rfl
@[simp] theorem State.onRes_xreg (f : Results → Results) : (s.onRes f).xreg = s.xreg := rfl
@[simp] theorem State.onRes_irq (f : Results → Results) : (s.onRes f).irq = s.irq := rfl
@[simp] theorem State.onRes_res (f : Results → Results) : (s.onRes f).res = f s.res := rfl
@[simp] theorem State.onRes_faultMark (f : Results → Results) : (s.onRes f).faultMark = s.faultMark := rfl
@[simp] theorem State.onRes_refuseMark (f : Results → Results) : (s.onRes f).refuseMark = s.refuseMark := rfl
@[simp] theorem State.onRes_hostMem (f : Results → Results) : (s.onRes f).hostMem = s.hostMem := rfl
@[simp] theorem State.onRes_epd (f : Results → Results) : (s.onRes f).epd = s.epd := rfl
@[simp] theorem State.onRes_draw (f : Results → Results) : (s.onRes f).draw = s.draw := rfl
@[simp] theorem State.onRes_trace (f : Results → Results) : (s.onRes f).trace = s.trace := rfl

/-! ### `State.onHostMem` -/

@[simp] theorem State.onHostMem_cfg (f : Memory → Memory) : (s.onHostMem f).cfg = s.cfg := rfl
@[simp] theorem State.onHostMem_env (f : Memory → Memory) : (s.onHostMem f).env = s.env := rfl
@[simp] theorem State.onHostMem_started (f : Memory → Memory) : (s.onHostMem f).started = s.started := rfl
@[simp] theorem State.onHostMem_hostQueue (f : Memory → Memory) : (s.onHostMem f).hostQueue = s.hostQueue := rfl
@[simp] theorem State.onHostMem_hostPos (f : Memory → Memory) : (s.onHostMem f).hostPos = s.hostPos := rfl
@[simp] theorem State.onHostMem_radio (f : Memory → Memory) : (s.onHostMem f).radio = s.radio := rfl
@[simp] theorem State.onHostMem_arb (f : Memory → Memory) : (s.onHostMem f).arb = s.arb := rfl
@[simp] theorem State.onHostMem_ring (f : Memory → Memory) : (s.onHostMem f).ring = s.ring := rfl
@[simp] theorem State.onHostMem_xreg (f : Memory → Memory) : (s.onHostMem f).xreg = s.xreg := rfl
@[simp] theorem State.onHostMem_irq (f : Memory → Memory) : (s.onHostMem f).irq = s.irq := rfl
@[simp] theorem State.onHostMem_res (f : Memory → Memory) : (s.onHostMem f).res = s.res := rfl
@[simp] theorem State.onHostMem_faultMark (f : Memory → Memory) : (s.onHostMem f).faultMark = s.faultMark := rfl
@[simp] theorem State.onHostMem_refuseMark (f : Memory → Memory) : (s.onHostMem f).refuseMark = s.refuseMark := rfl
@[simp] theorem State.onHostMem_hostMem (f : Memory → Memory) : (s.onHostMem f).hostMem = f s.hostMem := rfl
@[simp] theorem State.onHostMem_epd (f : Memory → Memory) : (s.onHostMem f).epd = s.epd := rfl
@[simp] theorem State.onHostMem_draw (f : Memory → Memory) : (s.onHostMem f).draw = s.draw := rfl
@[simp] theorem State.onHostMem_trace (f : Memory → Memory) : (s.onHostMem f).trace = s.trace := rfl

/-! ### `State.onEpd` -/

@[simp] theorem State.onEpd_cfg (f : Display → Display) : (s.onEpd f).cfg = s.cfg := rfl
@[simp] theorem State.onEpd_env (f : Display → Display) : (s.onEpd f).env = s.env := rfl
@[simp] theorem State.onEpd_started (f : Display → Display) : (s.onEpd f).started = s.started := rfl
@[simp] theorem State.onEpd_hostQueue (f : Display → Display) : (s.onEpd f).hostQueue = s.hostQueue := rfl
@[simp] theorem State.onEpd_hostPos (f : Display → Display) : (s.onEpd f).hostPos = s.hostPos := rfl
@[simp] theorem State.onEpd_radio (f : Display → Display) : (s.onEpd f).radio = s.radio := rfl
@[simp] theorem State.onEpd_arb (f : Display → Display) : (s.onEpd f).arb = s.arb := rfl
@[simp] theorem State.onEpd_ring (f : Display → Display) : (s.onEpd f).ring = s.ring := rfl
@[simp] theorem State.onEpd_xreg (f : Display → Display) : (s.onEpd f).xreg = s.xreg := rfl
@[simp] theorem State.onEpd_irq (f : Display → Display) : (s.onEpd f).irq = s.irq := rfl
@[simp] theorem State.onEpd_res (f : Display → Display) : (s.onEpd f).res = s.res := rfl
@[simp] theorem State.onEpd_faultMark (f : Display → Display) : (s.onEpd f).faultMark = s.faultMark := rfl
@[simp] theorem State.onEpd_refuseMark (f : Display → Display) : (s.onEpd f).refuseMark = s.refuseMark := rfl
@[simp] theorem State.onEpd_hostMem (f : Display → Display) : (s.onEpd f).hostMem = s.hostMem := rfl
@[simp] theorem State.onEpd_epd (f : Display → Display) : (s.onEpd f).epd = f s.epd := rfl
@[simp] theorem State.onEpd_draw (f : Display → Display) : (s.onEpd f).draw = s.draw := rfl
@[simp] theorem State.onEpd_trace (f : Display → Display) : (s.onEpd f).trace = s.trace := rfl

/-! ### `State.onDraw` -/

@[simp] theorem State.onDraw_cfg (f : Draw → Draw) : (s.onDraw f).cfg = s.cfg := rfl
@[simp] theorem State.onDraw_env (f : Draw → Draw) : (s.onDraw f).env = s.env := rfl
@[simp] theorem State.onDraw_started (f : Draw → Draw) : (s.onDraw f).started = s.started := rfl
@[simp] theorem State.onDraw_hostQueue (f : Draw → Draw) : (s.onDraw f).hostQueue = s.hostQueue := rfl
@[simp] theorem State.onDraw_hostPos (f : Draw → Draw) : (s.onDraw f).hostPos = s.hostPos := rfl
@[simp] theorem State.onDraw_radio (f : Draw → Draw) : (s.onDraw f).radio = s.radio := rfl
@[simp] theorem State.onDraw_arb (f : Draw → Draw) : (s.onDraw f).arb = s.arb := rfl
@[simp] theorem State.onDraw_ring (f : Draw → Draw) : (s.onDraw f).ring = s.ring := rfl
@[simp] theorem State.onDraw_xreg (f : Draw → Draw) : (s.onDraw f).xreg = s.xreg := rfl
@[simp] theorem State.onDraw_irq (f : Draw → Draw) : (s.onDraw f).irq = s.irq := rfl
@[simp] theorem State.onDraw_res (f : Draw → Draw) : (s.onDraw f).res = s.res := rfl
@[simp] theorem State.onDraw_faultMark (f : Draw → Draw) : (s.onDraw f).faultMark = s.faultMark := rfl
@[simp] theorem State.onDraw_refuseMark (f : Draw → Draw) : (s.onDraw f).refuseMark = s.refuseMark := rfl
@[simp] theorem State.onDraw_hostMem (f : Draw → Draw) : (s.onDraw f).hostMem = s.hostMem := rfl
@[simp] theorem State.onDraw_epd (f : Draw → Draw) : (s.onDraw f).epd = s.epd := rfl
@[simp] theorem State.onDraw_draw (f : Draw → Draw) : (s.onDraw f).draw = f s.draw := rfl
@[simp] theorem State.onDraw_trace (f : Draw → Draw) : (s.onDraw f).trace = s.trace := rfl

/-! ### `State.emit` -/

@[simp] theorem State.emit_cfg (e : Event) : (s.emit e).cfg = s.cfg := rfl
@[simp] theorem State.emit_env (e : Event) : (s.emit e).env = s.env := rfl
@[simp] theorem State.emit_started (e : Event) : (s.emit e).started = s.started := rfl
@[simp] theorem State.emit_hostQueue (e : Event) : (s.emit e).hostQueue = s.hostQueue := rfl
@[simp] theorem State.emit_hostPos (e : Event) : (s.emit e).hostPos = s.hostPos := rfl
@[simp] theorem State.emit_radio (e : Event) : (s.emit e).radio = s.radio := rfl
@[simp] theorem State.emit_arb (e : Event) : (s.emit e).arb = s.arb := rfl
@[simp] theorem State.emit_ring (e : Event) : (s.emit e).ring = s.ring := rfl
@[simp] theorem State.emit_xreg (e : Event) : (s.emit e).xreg = s.xreg := rfl
@[simp] theorem State.emit_irq (e : Event) : (s.emit e).irq = s.irq := rfl
@[simp] theorem State.emit_res (e : Event) : (s.emit e).res = s.res := rfl
@[simp] theorem State.emit_faultMark (e : Event) : (s.emit e).faultMark = s.faultMark := rfl
@[simp] theorem State.emit_refuseMark (e : Event) : (s.emit e).refuseMark = s.refuseMark := rfl
@[simp] theorem State.emit_hostMem (e : Event) : (s.emit e).hostMem = s.hostMem := rfl
@[simp] theorem State.emit_epd (e : Event) : (s.emit e).epd = s.epd := rfl
@[simp] theorem State.emit_draw (e : Event) : (s.emit e).draw = s.draw := rfl
@[simp] theorem State.emit_trace (e : Event) : (s.emit e).trace = s.trace ++ [e] := rfl

/-! ### `State.withHostPos` -/

@[simp] theorem State.withHostPos_cfg (p : HostPos) : (s.withHostPos p).cfg = s.cfg := rfl
@[simp] theorem State.withHostPos_env (p : HostPos) : (s.withHostPos p).env = s.env := rfl
@[simp] theorem State.withHostPos_started (p : HostPos) : (s.withHostPos p).started = s.started := rfl
@[simp] theorem State.withHostPos_hostQueue (p : HostPos) : (s.withHostPos p).hostQueue = s.hostQueue := rfl
@[simp] theorem State.withHostPos_hostPos (p : HostPos) : (s.withHostPos p).hostPos = p := rfl
@[simp] theorem State.withHostPos_radio (p : HostPos) : (s.withHostPos p).radio = s.radio := rfl
@[simp] theorem State.withHostPos_arb (p : HostPos) : (s.withHostPos p).arb = s.arb := rfl
@[simp] theorem State.withHostPos_ring (p : HostPos) : (s.withHostPos p).ring = s.ring := rfl
@[simp] theorem State.withHostPos_xreg (p : HostPos) : (s.withHostPos p).xreg = s.xreg := rfl
@[simp] theorem State.withHostPos_irq (p : HostPos) : (s.withHostPos p).irq = s.irq := rfl
@[simp] theorem State.withHostPos_res (p : HostPos) : (s.withHostPos p).res = s.res := rfl
@[simp] theorem State.withHostPos_faultMark (p : HostPos) : (s.withHostPos p).faultMark = s.faultMark := rfl
@[simp] theorem State.withHostPos_refuseMark (p : HostPos) : (s.withHostPos p).refuseMark = s.refuseMark := rfl
@[simp] theorem State.withHostPos_hostMem (p : HostPos) : (s.withHostPos p).hostMem = s.hostMem := rfl
@[simp] theorem State.withHostPos_epd (p : HostPos) : (s.withHostPos p).epd = s.epd := rfl
@[simp] theorem State.withHostPos_draw (p : HostPos) : (s.withHostPos p).draw = s.draw := rfl
@[simp] theorem State.withHostPos_trace (p : HostPos) : (s.withHostPos p).trace = s.trace := rfl

/-! ### `State.withFault` -/

@[simp] theorem State.withFault_cfg (x : Fault) : (s.withFault x).cfg = s.cfg := rfl
@[simp] theorem State.withFault_env (x : Fault) : (s.withFault x).env = s.env := rfl
@[simp] theorem State.withFault_started (x : Fault) : (s.withFault x).started = s.started := rfl
@[simp] theorem State.withFault_hostQueue (x : Fault) : (s.withFault x).hostQueue = s.hostQueue := rfl
@[simp] theorem State.withFault_hostPos (x : Fault) : (s.withFault x).hostPos = s.hostPos := rfl
@[simp] theorem State.withFault_radio (x : Fault) : (s.withFault x).radio = s.radio := rfl
@[simp] theorem State.withFault_arb (x : Fault) : (s.withFault x).arb = s.arb := rfl
@[simp] theorem State.withFault_ring (x : Fault) : (s.withFault x).ring = s.ring := rfl
@[simp] theorem State.withFault_xreg (x : Fault) : (s.withFault x).xreg = s.xreg := rfl
@[simp] theorem State.withFault_irq (x : Fault) : (s.withFault x).irq = s.irq := rfl
@[simp] theorem State.withFault_res (x : Fault) : (s.withFault x).res = s.res := rfl
@[simp] theorem State.withFault_faultMark (x : Fault) : (s.withFault x).faultMark = some x := rfl
@[simp] theorem State.withFault_refuseMark (x : Fault) : (s.withFault x).refuseMark = s.refuseMark := rfl
@[simp] theorem State.withFault_hostMem (x : Fault) : (s.withFault x).hostMem = s.hostMem := rfl
@[simp] theorem State.withFault_epd (x : Fault) : (s.withFault x).epd = s.epd := rfl
@[simp] theorem State.withFault_draw (x : Fault) : (s.withFault x).draw = s.draw := rfl
@[simp] theorem State.withFault_trace (x : Fault) : (s.withFault x).trace = s.trace := rfl

/-! ### `State.withRefusal` -/

@[simp] theorem State.withRefusal_cfg (x : Refusal) : (s.withRefusal x).cfg = s.cfg := rfl
@[simp] theorem State.withRefusal_env (x : Refusal) : (s.withRefusal x).env = s.env := rfl
@[simp] theorem State.withRefusal_started (x : Refusal) : (s.withRefusal x).started = s.started := rfl
@[simp] theorem State.withRefusal_hostQueue (x : Refusal) : (s.withRefusal x).hostQueue = s.hostQueue := rfl
@[simp] theorem State.withRefusal_hostPos (x : Refusal) : (s.withRefusal x).hostPos = s.hostPos := rfl
@[simp] theorem State.withRefusal_radio (x : Refusal) : (s.withRefusal x).radio = s.radio := rfl
@[simp] theorem State.withRefusal_arb (x : Refusal) : (s.withRefusal x).arb = s.arb := rfl
@[simp] theorem State.withRefusal_ring (x : Refusal) : (s.withRefusal x).ring = s.ring := rfl
@[simp] theorem State.withRefusal_xreg (x : Refusal) : (s.withRefusal x).xreg = s.xreg := rfl
@[simp] theorem State.withRefusal_irq (x : Refusal) : (s.withRefusal x).irq = s.irq := rfl
@[simp] theorem State.withRefusal_res (x : Refusal) : (s.withRefusal x).res = s.res := rfl
@[simp] theorem State.withRefusal_faultMark (x : Refusal) : (s.withRefusal x).faultMark = s.faultMark := rfl
@[simp] theorem State.withRefusal_refuseMark (x : Refusal) : (s.withRefusal x).refuseMark = some x := rfl
@[simp] theorem State.withRefusal_hostMem (x : Refusal) : (s.withRefusal x).hostMem = s.hostMem := rfl
@[simp] theorem State.withRefusal_epd (x : Refusal) : (s.withRefusal x).epd = s.epd := rfl
@[simp] theorem State.withRefusal_draw (x : Refusal) : (s.withRefusal x).draw = s.draw := rfl
@[simp] theorem State.withRefusal_trace (x : Refusal) : (s.withRefusal x).trace = s.trace := rfl

/-! ### `State.withQueue` -/

@[simp] theorem State.withQueue_cfg (q : List HostAct) : (s.withQueue q).cfg = s.cfg := rfl
@[simp] theorem State.withQueue_env (q : List HostAct) : (s.withQueue q).env = s.env := rfl
@[simp] theorem State.withQueue_started (q : List HostAct) : (s.withQueue q).started = s.started := rfl
@[simp] theorem State.withQueue_hostQueue (q : List HostAct) : (s.withQueue q).hostQueue = q := rfl
@[simp] theorem State.withQueue_hostPos (q : List HostAct) : (s.withQueue q).hostPos = s.hostPos := rfl
@[simp] theorem State.withQueue_radio (q : List HostAct) : (s.withQueue q).radio = s.radio := rfl
@[simp] theorem State.withQueue_arb (q : List HostAct) : (s.withQueue q).arb = s.arb := rfl
@[simp] theorem State.withQueue_ring (q : List HostAct) : (s.withQueue q).ring = s.ring := rfl
@[simp] theorem State.withQueue_xreg (q : List HostAct) : (s.withQueue q).xreg = s.xreg := rfl
@[simp] theorem State.withQueue_irq (q : List HostAct) : (s.withQueue q).irq = s.irq := rfl
@[simp] theorem State.withQueue_res (q : List HostAct) : (s.withQueue q).res = s.res := rfl
@[simp] theorem State.withQueue_faultMark (q : List HostAct) : (s.withQueue q).faultMark = s.faultMark := rfl
@[simp] theorem State.withQueue_refuseMark (q : List HostAct) : (s.withQueue q).refuseMark = s.refuseMark := rfl
@[simp] theorem State.withQueue_hostMem (q : List HostAct) : (s.withQueue q).hostMem = s.hostMem := rfl
@[simp] theorem State.withQueue_epd (q : List HostAct) : (s.withQueue q).epd = s.epd := rfl
@[simp] theorem State.withQueue_draw (q : List HostAct) : (s.withQueue q).draw = s.draw := rfl
@[simp] theorem State.withQueue_trace (q : List HostAct) : (s.withQueue q).trace = s.trace := rfl

/-! ### `State.withStarted` -/

@[simp] theorem State.withStarted_cfg : s.withStarted.cfg = s.cfg := rfl
@[simp] theorem State.withStarted_env : s.withStarted.env = s.env := rfl
@[simp] theorem State.withStarted_started : s.withStarted.started = true := rfl
@[simp] theorem State.withStarted_hostQueue : s.withStarted.hostQueue = s.hostQueue := rfl
@[simp] theorem State.withStarted_hostPos : s.withStarted.hostPos = s.hostPos := rfl
@[simp] theorem State.withStarted_radio : s.withStarted.radio = s.radio := rfl
@[simp] theorem State.withStarted_arb : s.withStarted.arb = s.arb := rfl
@[simp] theorem State.withStarted_ring : s.withStarted.ring = s.ring := rfl
@[simp] theorem State.withStarted_xreg : s.withStarted.xreg = s.xreg := rfl
@[simp] theorem State.withStarted_irq : s.withStarted.irq = s.irq := rfl
@[simp] theorem State.withStarted_res : s.withStarted.res = s.res := rfl
@[simp] theorem State.withStarted_faultMark : s.withStarted.faultMark = s.faultMark := rfl
@[simp] theorem State.withStarted_refuseMark : s.withStarted.refuseMark = s.refuseMark := rfl
@[simp] theorem State.withStarted_hostMem : s.withStarted.hostMem = s.hostMem := rfl
@[simp] theorem State.withStarted_epd : s.withStarted.epd = s.epd := rfl
@[simp] theorem State.withStarted_draw : s.withStarted.draw = s.draw := rfl
@[simp] theorem State.withStarted_trace : s.withStarted.trace = s.trace := rfl

end Sys2Proof.Machine
end

