-- ==== Sys2Proof/Laws/Run.lean ====
section
/-! SUPPORT. What a run of each shared operation of `Machine/Ops.lean` leaves, one equation for each, so that a
proof rewrites a command line by line and unfolds no operation. -/

namespace Sys2Proof.Machine

variable {α β : Type}

/-! ### Sequencing -/

@[simp] theorem run_pure_ok (a : α) (s : State) : (pure a : M α).run s = .ok a s := rfl

@[simp] theorem run_get_ok (s : State) : (get : M State).run s = .ok s s := rfl

@[simp] theorem run_modify_ok (f : State → State) (s : State) : (modify f : M Unit).run s = .ok () (f s) := rfl

theorem run_bind_ok {m : M α} {f : α → M β} {s t : State} {a : α} (h : m.run s = .ok a t) :
    (m >>= f).run s = (f a).run t := by
  simp [EStateM.run_bind, h]

theorem run_bind_error {m : M α} {f : α → M β} {s t : State} {e : Stop} (h : m.run s = .error e t) :
    (m >>= f).run s = .error e t := by
  simp [EStateM.run_bind, h]

/-- A sequence that ends well: its first part did, and then its second. -/
theorem run_bind_eq_ok {m : M α} {f : α → M β} {s t : State} {b : β} :
    (m >>= f).run s = .ok b t ↔ ∃ a u, m.run s = .ok a u ∧ (f a).run u = .ok b t := by
  rw [EStateM.run_bind]
  split <;> simp_all

/-- A sequence that stops: in its first part or in its second. -/
theorem run_bind_eq_error {m : M α} {f : α → M β} {s t : State} {e : Stop} :
    (m >>= f).run s = .error e t ↔
      m.run s = .error e t ∨ ∃ a u, m.run s = .ok a u ∧ (f a).run u = .error e t := by
  rw [EStateM.run_bind]
  split <;> simp_all

@[simp] theorem run_ite (c : Prop) [Decidable c] (m n : M α) (s : State) :
    (if c then m else n).run s = if c then m.run s else n.run s := by split <;> rfl

@[simp] theorem raise_run (f : Fault) (s : State) : (raise f : M α).run s = .error (.fault f) s := rfl

@[simp] theorem refuse_run (x : Refusal) (s : State) : (refuse x : M α).run s = .error (.refuse x) s := rfl

@[simp] theorem stayAt_run (p : HostPos) (s : State) : (stayAt p : M α).run s = .error (.hold p) s := rfl

@[simp] theorem forEach_nil_run (f : α → M Unit) (s : State) : (forEach f []).run s = .ok () s := rfl

@[simp] theorem forEach_cons_run (f : α → M Unit) (a : α) (as : List α) (s : State) :
    (forEach f (a :: as)).run s = (f a >>= fun _ => forEach f as).run s := rfl

theorem forEach_append_run (f : α → M Unit) (as bs : List α) (s : State) :
    (forEach f (as ++ bs)).run s = (forEach f as >>= fun _ => forEach f bs).run s := by
  induction as generalizing s with
  | nil => rfl
  | cons a as ih =>
    simp only [List.cons_append, forEach_cons_run, EStateM.run_bind]
    cases h : (f a).run s with
    | ok x t => simp only [ih, EStateM.run_bind]
    | error e t => rfl

/-- A body that always goes on, for each element of a list. -/
theorem forEach_run_foldl {f : α → M Unit} {g : α → State → State} {p : State → Prop}
    (hf : ∀ a s, p s → (f a).run s = .ok () (g a s)) (hg : ∀ a s, p s → p (g a s)) (as : List α) (s : State)
    (hs : p s) : (forEach f as).run s = .ok () (as.foldl (fun t a => g a t) s) := by
  induction as generalizing s with
  | nil => rfl
  | cons a as ih => rw [forEach_cons_run, run_bind_ok (hf a s hs), ih _ (hg a s hs)]; rfl

/-- A `for` line with a turn left (R9). -/
theorem forLine_cons_run (head : M Unit) (f : α → M Unit) (a : α) (as : List α) (s : State) :
    (forLine head f (a :: as)).run s = (head >>= fun _ => f a >>= fun _ => forLine head f as).run s := by
  simp only [forLine, EStateM.run_bind, forEach_cons_run]
  cases head.run s with
  | ok x t => dsimp only; cases (f a).run t <;> rfl
  | error e t => rfl

@[simp] theorem forLine_nil_run (head : M Unit) (f : α → M Unit) (s : State) :
    (forLine head f []).run s = head.run s := rfl

/-! ### Registers and updates -/

@[simp] theorem readReg_some_run (no : Nat) (v : α) (s : State) : (readReg no (some v)).run s = .ok v s := rfl

@[simp] theorem readReg_none_run (no : Nat) (s : State) :
    (readReg no (none : Option α)).run s = .error (.fault (.unwritten .register no)) s := rfl

@[simp] theorem emit_run (e : Event) (s : State) : (emit e).run s = .ok () (s.emit e) := rfl

@[simp] theorem setRadio_run (f : RadioFlags → RadioFlags) (s : State) :
    (setRadio f).run s = .ok () (s.onRadio f) := rfl

@[simp] theorem setArb_run (f : Arbiter → Arbiter) (s : State) : (setArb f).run s = .ok () (s.onArb f) := rfl

@[simp] theorem setRing_run (f : Ring → Ring) (s : State) : (setRing f).run s = .ok () (s.onRing f) := rfl

@[simp] theorem setIrq_run (f : Interrupt → Interrupt) (s : State) :
    (setIrq f).run s = .ok () (s.onIrq f) := rfl

@[simp] theorem setRes_run (f : Results → Results) (s : State) : (setRes f).run s = .ok () (s.onRes f) := rfl

@[simp] theorem setEpd_run (f : Display → Display) (s : State) : (setEpd f).run s = .ok () (s.onEpd f) := rfl

@[simp] theorem setDraw_run (f : Draw → Draw) (s : State) : (setDraw f).run s = .ok () (s.onDraw f) := rfl

@[simp] theorem setEnv_run (f : Env → Env) (s : State) : (setEnv f).run s = .ok () (s.onEnv f) := rfl

@[simp] theorem setValue_run (v : U16) (s : State) :
    (setValue v).run s = .ok () (s.onRes fun r => { r with value := some v }) := rfl

@[simp] theorem moveTo_run (p : HostPos) (s : State) : (moveTo p).run s = .ok () (s.withHostPos p) := rfl

/-- Everything `freeCount <- v` can do (R13). -/
theorem setFreeCount_run (v : Int) (s : State) :
    (setFreeCount v).run s =
      if 0 ≤ v ∧ v ≤ 3 then .ok () (s.onRing fun r => { r with freeCount := some v.toNat })
      else .error (.fault (.ringRange v)) s := by
  rw [setFreeCount, run_ite]
  rfl

/-- Everything a critical section can do (R34). -/
theorem atomic_run (body : M α) (s : State) :
    (atomic body).run s =
      match body.run (s.onIrq fun q => { q with ie := false }) with
      | .ok a t => .ok a (t.onIrq fun q => { q with ie := s.irq.ie })
      | .error e t => .error e t := by
  simp only [atomic, EStateM.run_bind, run_get_ok, setIrq_run]
  cases body.run (s.onIrq fun q => { q with ie := false }) <;> rfl

theorem atomic_run_ok {body : M α} {s t : State} {a : α}
    (h : body.run (s.onIrq fun q => { q with ie := false }) = .ok a t) :
    (atomic body).run s = .ok a (t.onIrq fun q => { q with ie := s.irq.ie }) := by
  rw [atomic_run, h]

/-- Everything one line can do (R106). -/
theorem oneStep_run (m : M Unit) (s : State) :
    (oneStep m).run s = match m.run s with | .ok a t => .ok a t | .error e _ => .error e s := rfl

/-! ### The byte spaces -/

/-- Everything a HOST read can do (R23, R24). -/
theorem hostRead_run (a : Nat) (s : State) :
    (hostRead a).run s =
      if s.cfg.hostMemSize ≤ a then .error (.fault (.range .host a)) s
      else
        match s.hostMem.read a with
        | some b => .ok b s
        | none => .error (.fault (.unwritten .host a)) s := by
  simp only [hostRead, EStateM.run_bind, run_get_ok, run_ite, raise_run]
  split
  · rfl
  · cases s.hostMem.read a <;> rfl

/-- Everything a HOST write can do (R23). -/
theorem hostWrite_run (a : Nat) (v : Byte) (s : State) :
    (hostWrite a v).run s =
      if s.cfg.hostMemSize ≤ a then .error (.fault (.range .host a)) s
      else .ok () (s.onHostMem fun m => m.write a v) := by
  simp only [hostWrite, EStateM.run_bind, run_get_ok, run_ite, raise_run, run_modify_ok]

/-- Everything a ring read can do (R23, R24). -/
theorem ringRead_run (r : Fin 3) (o : Nat) (s : State) :
    (ringRead r o).run s =
      if slotSize s.cfg ≤ o then .error (.fault (.range (.ring r) o)) s
      else
        match s.ring.cells.read (ringAddr r o) with
        | some b => .ok b s
        | none => .error (.fault (.unwritten (.ring r) o)) s := by
  simp only [ringRead, EStateM.run_bind, run_get_ok, run_ite, raise_run]
  split
  · rfl
  · cases s.ring.cells.read (ringAddr r o) <;> rfl

/-- Everything a scratch read can do (R23, R24). -/
theorem scratchRead_run (o : Nat) (s : State) :
    (scratchRead o).run s =
      if s.cfg.scratchSize ≤ o then .error (.fault (.range .scratch o)) s
      else
        match s.draw.scratch.read o with
        | some b => .ok b s
        | none => .error (.fault (.unwritten .scratch o)) s := by
  simp only [scratchRead, EStateM.run_bind, run_get_ok, run_ite, raise_run]
  split
  · rfl
  · cases s.draw.scratch.read o <;> rfl

/-- Everything a scratch write can do (R23). -/
theorem scratchWrite_run (o : Nat) (v : Byte) (s : State) :
    (scratchWrite o v).run s =
      if s.cfg.scratchSize ≤ o then .error (.fault (.range .scratch o)) s
      else .ok () (s.onDraw fun d => { d with scratch := d.scratch.write o v }) := by
  simp only [scratchWrite, EStateM.run_bind, run_get_ok, run_ite, raise_run, setDraw_run]

/-! ### The environment's answers -/

@[simp] theorem freeAnswer_run (free : Nat → α) (s : State) :
    (freeAnswer free).run s = .ok (free s.env.draws) (s.onEnv fun v => { v with draws := v.draws + 1 }) := rfl

/-- Everything a draw of the identity byte can do (R20). -/
theorem drawId_run (s : State) :
    drawId.run s =
      match s.env.idBytes with
      | b :: bs => .ok b (s.onEnv fun v => { v with idBytes := bs })
      | [] => .ok (Config.idByte s.env.draws) (s.onEnv fun v => { v with draws := v.draws + 1 }) := by
  simp only [drawId, EStateM.run_bind, run_get_ok]
  cases s.env.idBytes <;> rfl

/-- Everything `AdcSample()` can do (R20). -/
theorem adcSample_run (s : State) :
    adcSample.run s =
      match s.env.adc with
      | c :: cs => .ok c (s.onEnv fun v => { v with adc := cs })
      | [] => .ok (Config.adcCode s.env.draws) (s.onEnv fun v => { v with draws := v.draws + 1 }) := by
  simp only [adcSample, EStateM.run_bind, run_get_ok]
  cases s.env.adc <;> rfl

/-- Everything the choice of `RxStopHw(MAYBE_KEEP)` can do (R61). -/
theorem drawKeep_run (s : State) :
    drawKeep.run s =
      match s.env.keep with
      | b :: bs => .ok b (s.onEnv fun v => { v with keep := bs })
      | [] => .ok (Config.keepPending s.env.draws) (s.onEnv fun v => { v with draws := v.draws + 1 }) := by
  simp only [drawKeep, EStateM.run_bind, run_get_ok]
  cases s.env.keep <;> rfl

/-- Everything the draw of RX_ACK_GET_LAST can do (R77). -/
theorem drawAck_run (s : State) :
    drawAck.run s =
      match s.env.acks with
      | b :: bs => .ok b (s.onEnv fun v => { v with acks := bs })
      | [] => .ok (Config.ackSeq s.env.draws) (s.onEnv fun v => { v with draws := v.draws + 1 }) := by
  simp only [drawAck, EStateM.run_bind, run_get_ok]
  cases s.env.acks <;> rfl

/-- Everything a racing read can do (R30). -/
theorem drawRace_run (s : State) :
    drawRace.run s =
      match s.env.race with
      | b :: bs => .ok b (s.onEnv fun v => { v with race := bs })
      | [] => .ok (Config.raceByte s.env.draws) (s.onEnv fun v => { v with draws := v.draws + 1 }) := by
  simp only [drawRace, EStateM.run_bind, run_get_ok]
  cases s.env.race <;> rfl

/-- Everything a reading of the busy line can do (R20, R113). -/
theorem busyRead_run (awaited : Bool) (s : State) :
    (busyRead awaited).run s =
      match s.env.busy with
      | b :: bs => .ok b (s.onEnv fun v => { v with busy := bs })
      | [] =>
        if s.cfg.assumePanelLive = true then .ok awaited s
        else .ok (Config.busyLevel s.env.draws) (s.onEnv fun v => { v with draws := v.draws + 1 }) := by
  simp only [busyRead, EStateM.run_bind, run_get_ok]
  cases s.env.busy with
  | nil => simp only [run_ite]; rfl
  | cons b bs => rfl

/-! ### The transceiver bus -/

@[simp] theorem busWrite_run (a v : Byte) (s : State) :
    (busWrite a v).run s = .ok () ((s.emit (.busWrite a v)).onXreg fun m => m.write a.toNat v) := rfl

@[simp] theorem strobe_run (k : StrobeKind) (s : State) : (strobe k).run s = .ok () (s.emit (.strobe k)) := rfl

/-! ### How a command ends -/

@[simp] theorem endCommand_run (op : Byte) (st : Status) (s : State) :
    (endCommand op st).run s =
      .ok () ((s.onRes fun r => { r with status := some st }).emit (.result op st)) := rfl

/-- Everything a command can do (R104). -/
theorem command_run (op : Byte) (body : M Status) (s : State) :
    (command op body).run s =
      match body.run s with
      | .ok st t => .ok () ((t.onRes fun r => { r with status := some st }).emit (.result op st))
      | .error e t => .error e t := by
  simp only [command, EStateM.run_bind, endCommand_run]
  cases body.run s <;> rfl

/-- A nested command that returns leaves the client at its own line (R91). -/
theorem issue_run_ok {op : Byte} {body : M Status} {s t : State} {st : Status}
    (h : body.run (s.withHostPos (.line op 1)) = .ok st t) :
    (issue op body).run s =
      .ok () (((t.onRes fun r => { r with status := some st }).emit (.result op st)).withHostPos s.hostPos) := by
  simp only [issue, EStateM.run_bind, run_get_ok, moveTo_run, command_run, h]

/-- A nested command that stops ends the whole run where it stopped (R91). -/
theorem issue_run_error {op : Byte} {body : M Status} {s t : State} {e : Stop}
    (h : body.run (s.withHostPos (.line op 1)) = .error e t) : (issue op body).run s = .error e t := by
  simp only [issue, EStateM.run_bind, run_get_ok, moveTo_run, command_run, h]

theorem resumeCommand_of_return {op : Byte} {body : M Status} {s t : State} {st : Status}
    (h : body.run s = .ok st t) :
    resumeCommand op body s =
      ((t.onRes fun r => { r with status := some st }).emit (.result op st)).withHostPos .idle := by
  rw [resumeCommand, command_run, h]; rfl

theorem resumeCommand_of_fault {op : Byte} {body : M Status} {s t : State} {f : Fault}
    (h : body.run s = .error (.fault f) t) : resumeCommand op body s = (t.withFault f).withHostPos .idle := by
  rw [resumeCommand, command_run, h]; rfl

theorem resumeCommand_of_refusal {op : Byte} {body : M Status} {s t : State} {x : Refusal}
    (h : body.run s = .error (.refuse x) t) :
    resumeCommand op body s = (t.withRefusal x).withHostPos .idle := by
  rw [resumeCommand, command_run, h]; rfl

theorem resumeCommand_of_hold {op : Byte} {body : M Status} {s t : State} {p : HostPos}
    (h : body.run s = .error (.hold p) t) : resumeCommand op body s = t.withHostPos p := by
  rw [resumeCommand, command_run, h]; rfl

/-- A command that starts goes on from its first line (R9). -/
theorem runCommand_eq_resume (op : Byte) (body : M Status) (s : State) :
    runCommand op body s = resumeCommand op body (s.withHostPos (.line op 1)) := rfl

end Sys2Proof.Machine
end

