-- ==== Sys2Proof/Laws/Quiet.lean ====
section
/-! SUPPORT. What the shared procedures of the host leave when no other agent is scheduled: for each one an
equation with the closed form of `Safety.lean`. -/

namespace Sys2Proof.Machine

variable {s : State}

/-! ### The closed forms leave the rest alone -/

@[simp] theorem State.rfApplied_env (es : List (Byte × Byte)) : (s.rfApplied es).env = s.env := rfl
@[simp] theorem State.rfApplied_cfg (es : List (Byte × Byte)) : (s.rfApplied es).cfg = s.cfg := rfl
@[simp] theorem State.rfApplied_radio (es : List (Byte × Byte)) : (s.rfApplied es).radio = s.radio := rfl
@[simp] theorem State.rfApplied_arb (es : List (Byte × Byte)) : (s.rfApplied es).arb = s.arb := rfl
@[simp] theorem State.rfApplied_ring (es : List (Byte × Byte)) : (s.rfApplied es).ring = s.ring := rfl
@[simp] theorem State.rfApplied_irq (es : List (Byte × Byte)) : (s.rfApplied es).irq = s.irq := rfl
@[simp] theorem State.rxStarted_env (w : Fin 3) (n : Nat) : (s.rxStarted w n).env = s.env := by
  rw [State.rxStarted]; split <;> rfl
@[simp] theorem State.rxStarted_cfg (w : Fin 3) (n : Nat) : (s.rxStarted w n).cfg = s.cfg := by
  rw [State.rxStarted]; split <;> rfl
@[simp] theorem State.rxStarted_radio (w : Fin 3) (n : Nat) : (s.rxStarted w n).radio = s.radio := by
  rw [State.rxStarted]; split <;> rfl
@[simp] theorem State.rxStarted_res (w : Fin 3) (n : Nat) : (s.rxStarted w n).res = s.res := by
  rw [State.rxStarted]; split <;> rfl
@[simp] theorem State.rxStopped_env (p : Bool) : (s.rxStopped p).env = s.env := rfl
@[simp] theorem State.rxStopped_cfg (p : Bool) : (s.rxStopped p).cfg = s.cfg := rfl
@[simp] theorem State.rxStopped_radio (p : Bool) : (s.rxStopped p).radio = s.radio := rfl
@[simp] theorem State.rxStopped_ring (p : Bool) : (s.rxStopped p).ring = s.ring := rfl
@[simp] theorem State.drained_cfg : s.drained.cfg = s.cfg := by rw [State.drained]; split <;> rfl
@[simp] theorem State.drained_env : s.drained.env = s.env := by rw [State.drained]; split <;> rfl
@[simp] theorem State.drained_draw : s.drained.draw = s.draw := by rw [State.drained]; split <;> rfl
@[simp] theorem State.drained_epdPowered : s.drained.epd.epdPowered = s.epd.epdPowered := by
  rw [State.drained]; split <;> rfl
@[simp] theorem State.drained_spiConnected : s.drained.epd.spiConnected = s.epd.spiConnected := by
  rw [State.drained]; split <;> rfl
@[simp] theorem State.drained_streamIdx : s.drained.epd.streamIdx = s.epd.streamIdx := by
  rw [State.drained]; split <;> rfl
@[simp] theorem State.byteHanded_cfg (t : CtrlSet) (k : ByteKind) (b : Byte) : (s.byteHanded t k b).cfg = s.cfg := by
  simp [State.byteHanded]
@[simp] theorem State.byteHanded_env (t : CtrlSet) (k : ByteKind) (b : Byte) : (s.byteHanded t k b).env = s.env := by
  simp [State.byteHanded]
@[simp] theorem State.byteHanded_draw (t : CtrlSet) (k : ByteKind) (b : Byte) :
    (s.byteHanded t k b).draw = s.draw := by simp [State.byteHanded]
@[simp] theorem State.byteHanded_spiConnected (t : CtrlSet) (k : ByteKind) (b : Byte) :
    (s.byteHanded t k b).epd.spiConnected = s.epd.spiConnected := by simp [State.byteHanded]
@[simp] theorem State.byteHanded_epdPowered (t : CtrlSet) (k : ByteKind) (b : Byte) :
    (s.byteHanded t k b).epd.epdPowered = s.epd.epdPowered := by simp [State.byteHanded]
@[simp] theorem State.selected_cfg (l : Bool) : (s.selected l).cfg = s.cfg := rfl
@[simp] theorem State.selected_env (l : Bool) : (s.selected l).env = s.env := rfl
@[simp] theorem State.selected_draw (l : Bool) : (s.selected l).draw = s.draw := rfl
@[simp] theorem State.selected_spiConnected (l : Bool) : (s.selected l).epd.spiConnected = s.epd.spiConnected := rfl
@[simp] theorem State.selected_epdPowered (l : Bool) : (s.selected l).epd.epdPowered = s.epd.epdPowered := rfl
@[simp] theorem State.selected_spiBusy (l : Bool) : (s.selected l).epd.spiBusy = s.epd.spiBusy := rfl

/-! ### The host's position moves past the closed forms -/

section Position
variable (q : HostPos)

@[simp] theorem State.withHostPos_self : s.withHostPos s.hostPos = s := rfl
@[simp] theorem State.withHostPos_withHostPos (p : HostPos) : (s.withHostPos p).withHostPos q = s.withHostPos q := rfl
@[simp] theorem State.withHostPos_returned (op : Byte) (st : Status) :
    (s.withHostPos q).returned op st = s.returned op st := rfl
@[simp] theorem State.withHostPos_refusedWith (x : Refusal) : (s.withHostPos q).refusedWith x = s.refusedWith x := rfl
@[simp] theorem State.withHostPos_faultedWith (f : Fault) : (s.withHostPos q).faultedWith f = s.faultedWith f := rfl
theorem State.withHostPos_nestedReturn (op : Byte) (st : Status) :
    (s.withHostPos q).nestedReturn op st = (s.nestedReturn op st).withHostPos q := rfl
theorem State.withHostPos_onEnv (f : Env → Env) : (s.withHostPos q).onEnv f = (s.onEnv f).withHostPos q := rfl
theorem State.withHostPos_onRadio (f : RadioFlags → RadioFlags) :
    (s.withHostPos q).onRadio f = (s.onRadio f).withHostPos q := rfl
theorem State.withHostPos_onArb (f : Arbiter → Arbiter) :
    (s.withHostPos q).onArb f = (s.onArb f).withHostPos q := rfl
theorem State.withHostPos_onRing (f : Ring → Ring) :
    (s.withHostPos q).onRing f = (s.onRing f).withHostPos q := rfl
theorem State.withHostPos_onXreg (f : Memory → Memory) :
    (s.withHostPos q).onXreg f = (s.onXreg f).withHostPos q := rfl
theorem State.withHostPos_onIrq (f : Interrupt → Interrupt) :
    (s.withHostPos q).onIrq f = (s.onIrq f).withHostPos q := rfl
theorem State.withHostPos_onRes (f : Results → Results) :
    (s.withHostPos q).onRes f = (s.onRes f).withHostPos q := rfl
theorem State.withHostPos_onHostMem (f : Memory → Memory) :
    (s.withHostPos q).onHostMem f = (s.onHostMem f).withHostPos q := rfl
theorem State.withHostPos_onEpd (f : Display → Display) :
    (s.withHostPos q).onEpd f = (s.onEpd f).withHostPos q := rfl
theorem State.withHostPos_onDraw (f : Draw → Draw) :
    (s.withHostPos q).onDraw f = (s.onDraw f).withHostPos q := rfl
theorem State.withHostPos_emit (e : Event) : (s.withHostPos q).emit e = (s.emit e).withHostPos q := rfl
theorem State.withHostPos_rfApplied (es : List (Byte × Byte)) :
    (s.withHostPos q).rfApplied es = (s.rfApplied es).withHostPos q := rfl
theorem State.withHostPos_rxStopped (b : Bool) :
    (s.withHostPos q).rxStopped b = (s.rxStopped b).withHostPos q := rfl
theorem State.withHostPos_rxStarted (w : Fin 3) (n : Nat) :
    (s.withHostPos q).rxStarted w n = (s.rxStarted w n).withHostPos q := by
  simp only [State.rxStarted, show (s.withHostPos q).rxStarts n = s.rxStarts n from rfl]
  cases s.rxStarts n <;> rfl
theorem State.withHostPos_selected (b : Bool) :
    (s.withHostPos q).selected b = (s.selected b).withHostPos q := rfl
theorem State.withHostPos_drained : (s.withHostPos q).drained = s.drained.withHostPos q := by
  simp only [State.drained, State.withHostPos_epd]; split <;> rfl
theorem State.withHostPos_byteHanded (t : CtrlSet) (k : ByteKind) (b : Byte) :
    (s.withHostPos q).byteHanded t k b = (s.byteHanded t k b).withHostPos q := by
  simp only [State.byteHanded, State.withHostPos_drained]; rfl
theorem State.withHostPos_entrySent (cmd : Byte) (data : List Byte) :
    (s.withHostPos q).entrySent cmd data = (s.entrySent cmd data).withHostPos q := by
  have : ∀ (ds : List Byte) (u : State),
      ds.foldl (fun t b => t.byteHanded (allSet s.cfg) .data b) (u.withHostPos q) =
        (ds.foldl (fun t b => t.byteHanded (allSet s.cfg) .data b) u).withHostPos q := by
    intro ds
    induction ds with
    | nil => intro u; rfl
    | cons d ds ih => intro u; simp only [List.foldl_cons, State.withHostPos_byteHanded, ih]
  simp only [State.entrySent, State.withHostPos_cfg, State.withHostPos_drained, State.withHostPos_selected,
    State.withHostPos_byteHanded, this]
theorem State.withHostPos_tableSent (es : List (Byte × List Byte)) :
    (s.withHostPos q).tableSent es = (s.tableSent es).withHostPos q := by
  simp only [State.tableSent]
  induction es generalizing s with
  | nil => rfl
  | cons e es ih => simp only [List.foldl_cons, State.withHostPos_entrySent, ih]
theorem State.withHostPos_railUp : (s.withHostPos q).railUp = s.railUp.withHostPos q := rfl

end Position

/-! ### The end of a command -/

theorem resumeCommand_returned {op : Byte} {body : M Status} {t : State} {st : Status} (h : body.run s = .ok st t) :
    resumeCommand op body s = t.returned op st := resumeCommand_of_return h

theorem runCommand_returned {op : Byte} {body : M Status} {t : State} {st : Status}
    (h : body.run (s.withHostPos (.line op 1)) = .ok st t) :
    runCommand op body s = t.returned op st := resumeCommand_of_return h

theorem runCommand_refused {op : Byte} {body : M Status} {t : State} {x : Refusal}
    (h : body.run (s.withHostPos (.line op 1)) = .error (.refuse x) t) :
    runCommand op body s = t.refusedWith x := resumeCommand_of_refusal h

theorem runCommand_faulted {op : Byte} {body : M Status} {t : State} {f : Fault}
    (h : body.run (s.withHostPos (.line op 1)) = .error (.fault f) t) :
    runCommand op body s = t.faultedWith f := resumeCommand_of_fault h

/-! ### Points between lines -/

theorem tick_run_quiet (h : s.env.sched = []) : tick.run s = .ok () s := by
  simp only [tick, EStateM.run_bind, run_get_ok, h]; rfl

/-- The point before a line: the host's position moves and nothing else (R6, R9). -/
theorem atLine_run_quiet (h : s.env.sched = []) (op : Byte) (n : Nat) :
    (atLine op n).run s = .ok () (s.withHostPos (.line op n)) := by
  rw [atLine, run_bind_ok (moveTo_run _ _), tick_run_quiet (by simpa using h)]

theorem sleep_run_quiet (ms : Nat) (h : s.env.sched = []) : (sleep ms).run s = .ok () (s.emit (.sleep ms)) := by
  simp [sleep, EStateM.run_bind, tick_run_quiet, h]

/-! ### The radio half -/

/-- `RxStartIfNeeded()` with points between its lines at which nothing happens (R60). -/
theorem rxStart_run {gap : M Unit} (hg : ∀ t : State, t.env = s.env → gap.run t = .ok () t) {n : Nat} {w : Fin 3}
    (hn : s.ring.freeCount = some n) (hw : s.ring.writeIdx = some w) :
    (rxStart gap).run s = .ok () (s.rxStarted w n) := by
  have hgap : ∀ {β : Type} (f : Unit → M β) (t : State), t.env = s.env → (gap >>= f).run t = (f ()).run t :=
    fun f t ht => run_bind_ok (hg t ht)
  rw [rxStart, atomic_run_ok (t := (s.rxStarted w n).onIrq fun q => { q with ie := false }) (a := ())]
  · rw [State.rxStarted]
    split <;> rfl
  · rw [hgap _ _ (by rfl), run_bind_ok (run_get_ok _), State.rxStarted, State.rxStarts]
    by_cases h1 : s.arb.rxEnabled = true
    · rw [if_pos (by simpa using h1), State.onIrq_ring, hn, run_bind_ok (readReg_some_run _ _ _)]
      by_cases h2 : 0 < n ∧ s.arb.rxArmed = false ∧ s.arb.radioState ≠ .tx
      · rw [if_pos (by simpa using h2), run_bind_ok (setArb_run _ _), hgap _ _ (by rfl),
          run_bind_ok (run_get_ok _), State.onArb_ring, State.onIrq_ring, hw,
          run_bind_ok (readReg_some_run _ _ _), run_bind_ok (emit_run _ _), hgap _ _ (by rfl),
          run_bind_ok (strobe_run _ _), hgap _ _ (by rfl), setArb_run]
        simp [h1, h2, State.onIrq, State.onArb, State.emit]
      · rw [if_neg (by simpa using h2)]
        have : ¬(s.arb.rxEnabled && decide (0 < n) && !s.arb.rxArmed && decide (s.arb.radioState ≠ .tx)) = true := by
          simp only [Bool.and_eq_true, decide_eq_true_eq, Bool.not_eq_true', not_and] at h2 ⊢
          exact fun h => h2 h.1.2 h.2
        rw [if_neg this]
        rfl
    · rw [if_neg (by simpa using h1)]
      simp [h1]

/-- `RxStartIfNeeded()` inside one step, as the interrupt handler runs it (R64). -/
theorem rxStart_one_step_run {n : Nat} {w : Fin 3} (hn : s.ring.freeCount = some n)
    (hw : s.ring.writeIdx = some w) : (rxStart (pure ())).run s = .ok () (s.rxStarted w n) :=
  rxStart_run (fun _ _ => rfl) hn hw

/-- `RxStartIfNeeded()` with no agent scheduled (R60). -/
theorem rxStartIfNeeded_run_quiet (h : s.env.sched = []) {n : Nat} {w : Fin 3}
    (hn : s.ring.freeCount = some n) (hw : s.ring.writeIdx = some w) :
    rxStartIfNeeded.run s = .ok () (s.rxStarted w n) :=
  rxStart_run (fun _ ht => tick_run_quiet (by rw [ht]; exact h)) hn hw

theorem rxStopHw_clear_run_quiet (h : s.env.sched = []) :
    (rxStopHw false).run s = .ok () (s.rxStopped false) := by
  rw [rxStopHw, atomic_run]
  simp [EStateM.run_bind, tick_run_quiet, h, State.rxStopped, State.onIrq, State.onArb, State.emit]

theorem rxStopHw_keep_run_quiet (h : s.env.sched = []) {k : Bool} {ks : List Bool} (hk : s.env.keep = k :: ks) :
    (rxStopHw true).run s =
      .ok () ((s.rxStopped (s.irq.rxDonePending && k)).onEnv fun v => { v with keep := ks }) := by
  rw [rxStopHw, atomic_run]
  simp [EStateM.run_bind, tick_run_quiet, h, drawKeep_run, hk, State.rxStopped, State.onIrq, State.onArb,
    State.emit, State.onEnv]

theorem busWrites_run_quiet (es : List (Byte × Byte)) (h : s.env.sched = []) :
    (forEach (fun e : Byte × Byte => do
      tick
      busWrite e.1 e.2) es).run s = .ok () (s.rfApplied es) := by
  induction es generalizing s with
  | nil => simp [State.rfApplied]
  | cons e es ih =>
    rw [forEach_cons_run]
    simp only [EStateM.run_bind, tick_run_quiet h, busWrite_run]
    rw [ih (by simpa using h)]
    simp [State.rfApplied, State.onXreg, State.emit]

theorem rfTable_of_some {p : Params} {t : List Byte} (h : (rfEntries p.rfSentinel t).isSome = true) :
    rfEntries p.rfSentinel t = some (rfTable p t) := by
  rw [rfTable]; cases hh : rfEntries p.rfSentinel t <;> simp_all

/-- `ApplyTable(T)` of a table with its sentinel, with no agent scheduled (R58). -/
theorem applyTable_run_quiet (h : s.env.sched = []) {t : List Byte}
    (ht : (rfEntries s.cfg.rfSentinel t).isSome = true) :
    (applyTable t).run s = .ok () (s.rfApplied (rfTable s.cfg t)) := by
  rw [applyTable, EStateM.run_bind]
  simp only [run_get_ok, rfTable_of_some ht]
  rw [atomic_run_ok (busWrites_run_quiet _ (by simpa using h))]
  simp [State.rfApplied, State.onIrq]

/-- `SetPaHw(dBm)` with no agent scheduled (R59). -/
theorem setPaHw_run_quiet (h : s.env.sched = []) {d : Int} {c : Byte} (hc : s.cfg.paCode[paIndex d]? = some c) :
    (setPaHw d).run s =
      .ok () (((s.emit (.busWrite s.cfg.regPatable c)).onXreg fun m => m.write s.cfg.regPatable.toNat c).onRadio
        fun r => { r with txPowerIdx := some (paIndex d) }) := by
  rw [setPaHw, EStateM.run_bind]
  simp [EStateM.run_bind, hc, tick_run_quiet, h, State.emit, State.onXreg]

/-! ### The panel's bus -/

theorem takeMove_spiStep_run (hr : s.ShifterReady) : (takeMove .spiStep).run s = .ok () s.drained := by
  rw [takeMove, spiStep, State.drained]
  simp only [EStateM.run_bind, run_get_ok, run_ite]
  rcases hb : s.epd.spiBusy with _ | _
  · simp
  · obtain ⟨hc, hh⟩ := hr hb
    rcases hx : s.epd.spiHold with _ | ⟨t, k, b⟩
    · exact absurd hx hh
    · simp [hc, State.emit, State.onEpd, hx]

theorem awaitShifter_run_quiet (h : s.env.sched = []) (hr : s.ShifterReady) :
    awaitShifter.run s = .ok () s.drained := by
  rw [awaitShifter, EStateM.run_bind, tick_run_quiet h]
  exact takeMove_spiStep_run hr

theorem spiDrain_run_quiet (h : s.env.sched = []) (hr : s.ShifterReady) :
    spiDrain.run s = .ok () s.drained := awaitShifter_run_quiet h hr

/-- `PanelSend(T, k, b)` with no agent scheduled (R80). -/
theorem panelSend_run_quiet (h : s.env.sched = []) (hr : s.ShifterReady) (t : CtrlSet) (k : ByteKind) (b : Byte) :
    (panelSend t k b).run s = .ok () (s.byteHanded t k b) := by
  simp only [panelSend, EStateM.run_bind, awaitShifter_run_quiet h hr]
  simp [tick_run_quiet, h, State.byteHanded, State.onEpd]

theorem State.drained_ready (hr : s.ShifterReady) : s.drained.ShifterReady := by
  intro hb
  rw [State.drained] at hb ⊢
  split at hb <;> rename_i h1 <;> simp_all [State.ShifterReady]

theorem State.byteHanded_ready (hc : s.epd.spiConnected = true) (t : CtrlSet) (k : ByteKind) (b : Byte) :
    (s.byteHanded t k b).ShifterReady := by
  intro _
  exact ⟨by simpa using hc, by simp [State.byteHanded]⟩

theorem State.selected_ready (hr : s.ShifterReady) (l : Bool) : (s.selected l).ShifterReady := hr

theorem pinCsAll_run_quiet (h : s.env.sched = []) (l : Bool) : (pinCsAll l).run s = .ok () (s.selected l) := by
  rw [pinCsAll, EStateM.run_bind]
  simp only [run_get_ok, controllers, State.selected]
  split <;> rename_i h2 <;>
    simp [EStateM.run_bind, tick_run_quiet, h, pinCs, State.onEpd, State.emit]

theorem panelSends_run_quiet (h : s.env.sched = []) (hc : s.epd.spiConnected = true) (hr : s.ShifterReady)
    (t : CtrlSet) (k : ByteKind) (data : List Byte) :
    (forEach (panelSend t k) data).run s = .ok () (data.foldl (fun u b => u.byteHanded t k b) s) ∧
      (data.foldl (fun u b => u.byteHanded t k b) s).ShifterReady ∧
      (data.foldl (fun u b => u.byteHanded t k b) s).epd.spiConnected = true ∧
      (data.foldl (fun u b => u.byteHanded t k b) s).env = s.env ∧
      (data.foldl (fun u b => u.byteHanded t k b) s).cfg = s.cfg ∧
      (data.foldl (fun u b => u.byteHanded t k b) s).draw = s.draw ∧
      (data.foldl (fun u b => u.byteHanded t k b) s).epd.epdPowered = s.epd.epdPowered := by
  induction data generalizing s with
  | nil => exact ⟨rfl, hr, hc, rfl, rfl, rfl, rfl⟩
  | cons b data ih =>
    rw [forEach_cons_run, run_bind_ok (panelSend_run_quiet h hr t k b)]
    have := ih (s := s.byteHanded t k b) (by simpa using h) (by simpa using hc) (State.byteHanded_ready hc t k b)
    simpa using this

/-- What `SendEntry` leaves of the rest of the state. -/
theorem State.entrySent_frame (h : s.env.sched = []) (hc : s.epd.spiConnected = true) (cmd : Byte)
    (data : List Byte) :
    (s.entrySent cmd data).ShifterReady ∧ (s.entrySent cmd data).epd.spiConnected = true ∧
      (s.entrySent cmd data).env = s.env ∧ (s.entrySent cmd data).cfg = s.cfg ∧
      (s.entrySent cmd data).draw = s.draw ∧ (s.entrySent cmd data).epd.epdPowered = s.epd.epdPowered := by
  have hup : ((s.drained.selected s.cfg.csActive).byteHanded (allSet s.cfg) .cmd cmd).epd.spiConnected = true := by
    simpa using hc
  have hrd := State.byteHanded_ready (s := s.drained.selected s.cfg.csActive) (by simpa using hc) (allSet s.cfg) .cmd cmd
  obtain ⟨_, h2, h3, h4, h5, h6, h7⟩ := panelSends_run_quiet (by simpa using h) hup hrd (allSet s.cfg) .data data
  refine ⟨State.selected_ready (State.drained_ready h2) _, ?_, ?_, ?_, ?_, ?_⟩
  · simp only [State.entrySent, State.selected_spiConnected, State.drained_spiConnected, h3]
  · simp only [State.entrySent, State.selected_env, State.drained_env, h4, State.byteHanded_env]
  · simp only [State.entrySent, State.selected_cfg, State.drained_cfg, h5, State.byteHanded_cfg]
  · simp only [State.entrySent, State.selected_draw, State.drained_draw, h6, State.byteHanded_draw]
  · simp only [State.entrySent, State.selected_epdPowered, State.drained_epdPowered, h7,
      State.byteHanded_epdPowered]

/-- `SendEntry(cmd, data)` with no agent scheduled (R82). -/
theorem sendEntry_run_quiet (h : s.env.sched = []) (hc : s.epd.spiConnected = true) (hr : s.ShifterReady)
    (cmd : Byte) (data : List Byte) : (sendEntry cmd data).run s = .ok () (s.entrySent cmd data) := by
  have hup : ((s.drained.selected s.cfg.csActive).byteHanded (allSet s.cfg) .cmd cmd).epd.spiConnected = true := by
    simpa using hc
  have hrd := State.byteHanded_ready (s := s.drained.selected s.cfg.csActive) (by simpa using hc) (allSet s.cfg) .cmd cmd
  obtain ⟨h1, h2, h3, h4, h5, h6, h7⟩ := panelSends_run_quiet (by simpa using h) hup hrd (allSet s.cfg) .data data
  simp only [sendEntry, EStateM.run_bind, run_get_ok]
  rw [spiDrain_run_quiet h hr]
  simp only
  rw [pinCsAll_run_quiet (by simpa using h)]
  simp only
  rw [panelSend_run_quiet (by simpa using h) (State.selected_ready (State.drained_ready hr) _)]
  simp only [h1]
  rw [spiDrain_run_quiet (by rw [h4]; simpa using h) h2]
  simp only
  rw [pinCsAll_run_quiet (by rw [State.drained_env, h4]; simpa using h)]
  rfl

theorem entries_run_quiet (es : List (Byte × List Byte)) (h : s.env.sched = []) (hc : s.epd.spiConnected = true)
    (hr : s.ShifterReady) :
    (forEach (fun e : Byte × List Byte => sendEntry e.1 e.2) es).run s = .ok () (s.tableSent es) ∧
      (s.tableSent es).ShifterReady ∧ (s.tableSent es).epd.spiConnected = true ∧
      (s.tableSent es).env = s.env ∧ (s.tableSent es).cfg = s.cfg ∧ (s.tableSent es).draw = s.draw ∧
      (s.tableSent es).epd.epdPowered = s.epd.epdPowered := by
  induction es generalizing s with
  | nil => exact ⟨rfl, hr, hc, rfl, rfl, rfl, rfl⟩
  | cons e es ih =>
    obtain ⟨f1, f2, f3, f4, f5, f6⟩ := State.entrySent_frame h hc e.1 e.2
    obtain ⟨g0, g1, g2, g3, g4, g5, g6⟩ := ih (s := s.entrySent e.1 e.2) (by rw [f3]; exact h) f2 f1
    rw [forEach_cons_run, run_bind_ok (sendEntry_run_quiet h hc hr e.1 e.2)]
    exact ⟨g0, g1, g2, g3.trans f3, g4.trans f4, g5.trans f5, g6.trans f6⟩

theorem panelTable_of_some {p : Params} {t : List Byte} (h : (panelEntries p.epdCountMode t).isSome = true) :
    panelEntries p.epdCountMode t = some (panelTable p t) := by
  rw [panelTable]; cases hh : panelEntries p.epdCountMode t <;> simp_all

/-- `SendTable(tbl)` of a terminated table with no agent scheduled (R83). -/
theorem sendTable_run_quiet (h : s.env.sched = []) (hc : s.epd.spiConnected = true) (hr : s.ShifterReady)
    {t : List Byte} (ht : (panelEntries s.cfg.epdCountMode t).isSome = true) :
    (sendTable t).run s = .ok () (s.tableSent (panelTable s.cfg t)) := by
  rw [sendTable, EStateM.run_bind]
  simp only [run_get_ok, panelTable_of_some ht]
  exact (entries_run_quiet _ h hc hr).1

/-! ### Power-up and shutdown -/

/-- A busy wait with no reading given, of a live panel: it ends at once (R113). -/
theorem awaitBusy_run_live (h : s.env.sched = []) (hb : s.env.busy = []) (hl : s.cfg.assumePanelLive = true)
    (level : Bool) (p : HostPos) : (awaitBusy level p).run s = .ok () s := by
  simp [awaitBusy, EStateM.run_bind, hb, awaitBusyUpTo, tick_run_quiet h, busyRead_run, hl]

/-- What `PowerUpIfNeeded()` and `Shutdown()` need of the parameter record (R2). -/
def TablesOk (p : Params) : Prop :=
  (panelEntries p.epdCountMode p.tablePowerup).isSome = true ∧
    (panelEntries p.epdCountMode p.tableSetup).isSome = true ∧
    (panelEntries p.epdCountMode p.tablePowerdown).isSome = true ∧
    (panelEntries p.epdCountMode p.tableRefresh).isSome = true

theorem tablesOk_of_paramsOk {p : Params} (h : paramsOk p = true) : TablesOk p := by
  simp only [paramsOk, Bool.and_eq_true] at h
  exact ⟨h.1.1.1.1.1.1.1.2, h.1.1.1.1.1.1.2, h.1.1.1.1.1.2, h.1.1.1.1.2⟩

@[simp] theorem State.railUp_cfg : s.railUp.cfg = s.cfg := rfl
@[simp] theorem State.railUp_env : s.railUp.env = s.env := rfl
@[simp] theorem State.railUp_draw : s.railUp.draw = s.draw := rfl

theorem State.railUp_ready (hr : s.ShifterReady) : s.railUp.ShifterReady := fun hb => ⟨rfl, (hr hb).2⟩

theorem State.programmed_frame (h : s.env.sched = []) (hc : s.epd.spiConnected = true) (hr : s.ShifterReady) :
    s.programmed.ShifterReady ∧ s.programmed.epd.spiConnected = true ∧ s.programmed.env = s.env ∧
      s.programmed.cfg = s.cfg ∧ s.programmed.draw = s.draw := by
  obtain ⟨-, a1, a2, a3, a4, a5, -⟩ := entries_run_quiet (panelTable s.cfg s.cfg.tablePowerup) h hc hr
  obtain ⟨b1, b2, b3, b4, b5, -⟩ := State.entrySent_frame (by rw [a3]; exact h) a2 s.cfg.cmdPowerOn []
  generalize hu : (s.tableSent (panelTable s.cfg s.cfg.tablePowerup)).entrySent s.cfg.cmdPowerOn [] = u
    at b1 b2 b3 b4 b5
  obtain ⟨-, d1, d2, d3, d4, d5, -⟩ :=
    entries_run_quiet (panelTable u.cfg u.cfg.tableSetup) (by rw [b3, a3]; exact h) b2 b1
  obtain ⟨f1, f2, f3, f4, f5, -⟩ :=
    State.entrySent_frame (by rw [d3, b3, a3]; exact h) d2 u.cfg.cmdVcom [u.cfg.vcomCal]
  rw [State.programmed, State.powerOnSent, hu]
  exact ⟨f1, f2, f3.trans (d3.trans (b3.trans a3)), f4.trans (d4.trans (b4.trans a4)),
    f5.trans (d5.trans (b5.trans a5))⟩

/-- The host's position at a line of power-up moves, or stays at the line that calls the procedure (R9). -/
theorem powerGoTo_run (caller : PowerCaller) (n : Nat) (s : State) :
    ∃ p, (caller.goTo n).run s = .ok () (s.withHostPos p) := by
  cases caller
  · exact ⟨_, rfl⟩
  all_goals exact ⟨s.hostPos, rfl⟩

theorem powerAtLine_run_quiet (h : s.env.sched = []) (caller : PowerCaller) (n : Nat) :
    ∃ p, (caller.atLine n).run s = .ok () (s.withHostPos p) := by
  obtain ⟨p, hp⟩ := powerGoTo_run caller n s
  exact ⟨p, by rw [PowerCaller.atLine, run_bind_ok hp, tick_run_quiet (by simpa using h)]⟩

/-- After line 15 the command's position moves on to its return (R85). -/
theorem powerFinish_run_quiet (h : s.env.sched = []) (caller : PowerCaller) :
    ∃ p, caller.finish.run s = .ok () (s.withHostPos p) := by
  cases caller
  · exact ⟨_, atLine_run_quiet h _ _⟩
  all_goals exact ⟨s.hostPos, rfl⟩

/-- Power-up from line 8 on, of a live panel with no agent scheduled (R85). -/
theorem powerUpFrom8_run_quiet (h : s.env.sched = []) (hb : s.env.busy = [])
    (hl : s.cfg.assumePanelLive = true) (ht : TablesOk s.cfg) (hr : s.ShifterReady)
    (hc : s.epd.spiConnected = true) (caller : PowerCaller) :
    ∃ p, (powerUpFrom8 caller).run s = .ok () (s.programmed.withHostPos p) := by
  obtain ⟨p8, g8⟩ := powerGoTo_run caller 8 s
  have w8 := awaitBusy_run_live (s := s.withHostPos p8) h hb hl (!s.cfg.busyActive) (.busyWait .line8 caller)
  obtain ⟨p9, g9⟩ := powerAtLine_run_quiet (s := s.withHostPos p8) h caller 9
  have t9 := sendTable_run_quiet (s := s.withHostPos p9) h hc hr ht.1
  obtain ⟨-, a1, a2, a3, a4, -, -⟩ := entries_run_quiet (panelTable s.cfg s.cfg.tablePowerup) h hc hr
  rw [State.withHostPos_tableSent, State.withHostPos_cfg] at t9
  generalize hu : s.tableSent (panelTable s.cfg s.cfg.tablePowerup) = u at a1 a2 a3 a4 t9
  have qu : u.env.sched = [] := by rw [a3]; exact h
  obtain ⟨p10, g10⟩ := powerAtLine_run_quiet (s := u.withHostPos p9) qu caller 10
  have t10 := sendEntry_run_quiet (s := u.withHostPos p10) qu a2 a1 s.cfg.cmdPowerOn []
  obtain ⟨b1, b2, b3, b4, -, -⟩ := State.entrySent_frame qu a2 s.cfg.cmdPowerOn []
  rw [State.withHostPos_entrySent] at t10
  generalize hv : u.entrySent s.cfg.cmdPowerOn [] = v at b1 b2 b3 b4 t10
  have cv : v.cfg = s.cfg := b4.trans a4
  have ev : v.env = s.env := b3.trans a3
  have qv : v.env.sched = [] := by rw [ev]; exact h
  obtain ⟨p11, g11⟩ := powerGoTo_run caller 11 (v.withHostPos p10)
  have w11 := awaitBusy_run_live (s := v.withHostPos p11) qv (by rw [← hb, ← ev]; rfl)
    (by rw [← hl, ← cv]; rfl) v.cfg.busyActive (.busyWait .line11 caller)
  obtain ⟨p12, g12⟩ := powerGoTo_run caller 12 (v.withHostPos p11)
  have w12 := awaitBusy_run_live (s := v.withHostPos p12) qv (by rw [← hb, ← ev]; rfl)
    (by rw [← hl, ← cv]; rfl) (!v.cfg.busyActive) (.busyWait .line12 caller)
  obtain ⟨p13, g13⟩ := powerAtLine_run_quiet (s := v.withHostPos p12) qv caller 13
  have t13 := sendTable_run_quiet (s := v.withHostPos p13) (t := v.cfg.tableSetup) qv b2 b1
    (by have := ht.2.1; rw [← cv] at this; exact this)
  obtain ⟨-, d1, d2, d3, d4, -, -⟩ := entries_run_quiet (panelTable v.cfg v.cfg.tableSetup) qv b2 b1
  rw [State.withHostPos_tableSent, State.withHostPos_cfg] at t13
  generalize hw : v.tableSent (panelTable v.cfg v.cfg.tableSetup) = w at d1 d2 d3 d4 t13
  have qw : w.env.sched = [] := by rw [d3]; exact qv
  obtain ⟨p14, g14⟩ := powerAtLine_run_quiet (s := w.withHostPos p13) qw caller 14
  have t14 := sendEntry_run_quiet (s := w.withHostPos p14) qw d2 d1 v.cfg.cmdVcom [v.cfg.vcomCal]
  obtain ⟨-, -, f3, -, -, -⟩ := State.entrySent_frame qw d2 v.cfg.cmdVcom [v.cfg.vcomCal]
  rw [State.withHostPos_entrySent] at t14
  generalize hx : w.entrySent v.cfg.cmdVcom [v.cfg.vcomCal] = x at f3 t14
  obtain ⟨p15, g15⟩ := powerAtLine_run_quiet (s := x.withHostPos p14)
    (by rw [State.withHostPos_env, f3]; exact qw) caller 15
  have hfin : s.programmed = x.onEpd fun d => { d with epdPowered := true } := by
    rw [← hx, ← hw, ← hv, ← hu]
    rfl
  obtain ⟨p16, g16⟩ := powerFinish_run_quiet (s := (x.onEpd fun d => { d with epdPowered := true }).withHostPos p15)
    (by simp only [State.withHostPos_env, State.onEpd_env, f3]; exact qw) caller
  refine ⟨p16, ?_⟩
  rw [hfin]
  simp only [State.withHostPos_withHostPos] at g9 g10 g11 g12 g13 g14 g15 g16
  simp only [powerUpFrom8, powerUpFrom11, powerUpFrom12, EStateM.run_bind, run_get_ok, g8, w8, g9, t9, g10, t10, g11,
    State.withHostPos_cfg, w11, g12, w12, g13, t13, g14, t14, g15, setEpd_run, State.withHostPos_onEpd, g16]

/-- `PowerUpIfNeeded()` of a live panel with no agent scheduled (R85), and what it leaves of the rest. -/
theorem powerUpIfNeeded_run_quiet (h : s.env.sched = []) (hb : s.env.busy = [])
    (hl : s.cfg.assumePanelLive = true) (ht : TablesOk s.cfg) (hr : s.ShifterReady)
    (hpc : s.epd.epdPowered = true → s.epd.spiConnected = true) (caller : PowerCaller) :
    (∃ p, (powerUpIfNeeded caller).run s = .ok () (s.poweredUp.withHostPos p)) ∧ s.poweredUp.ShifterReady ∧
      s.poweredUp.epd.spiConnected = true ∧ s.poweredUp.epd.epdPowered = true ∧
      s.poweredUp.env = s.env ∧ s.poweredUp.cfg = s.cfg ∧ s.poweredUp.draw = s.draw := by
  obtain ⟨p1, g1⟩ := powerAtLine_run_quiet h caller 1
  by_cases hp : s.epd.epdPowered = true
  · have : s.poweredUp = s := by rw [State.poweredUp, if_pos hp]
    rw [this]
    refine ⟨⟨p1, ?_⟩, hr, hpc hp, hp, rfl, rfl, rfl⟩
    simp [powerUpIfNeeded, EStateM.run_bind, g1, hp]
  · obtain ⟨f1, f2, f3, f4, f5⟩ := State.programmed_frame (s := s.railUp) h rfl (State.railUp_ready hr)
    rw [State.poweredUp, if_neg hp]
    refine ⟨?_, f1, f2, rfl, f3, f4, f5⟩
    have hq : ∀ (n : Nat) (t : State), t.env = s.env → ∃ p, (caller.atLine n).run t = .ok () (t.withHostPos p) :=
      fun n t ht => powerAtLine_run_quiet (by rw [ht]; exact h) caller n
    obtain ⟨p2, g2⟩ := hq 2 (s.withHostPos p1) rfl
    obtain ⟨p3, g3⟩ := hq 3 ((s.selected (!s.cfg.csActive)).withHostPos p2) rfl
    have g4' := hq 4 (((s.selected (!s.cfg.csActive)).onEpd fun d => { d with pinPwr := !s.cfg.pwrOffLevel }).emit
      (.pin .pwr (!s.cfg.pwrOffLevel)) |>.withHostPos p3) rfl
    obtain ⟨p4, g4⟩ := g4'
    generalize hA : ((s.selected (!s.cfg.csActive)).onEpd fun d => { d with pinPwr := !s.cfg.pwrOffLevel }).emit
      (.pin .pwr (!s.cfg.pwrOffLevel)) = A at g4
    have eA : A.env = s.env := by rw [← hA]; rfl
    obtain ⟨p5, g5⟩ := hq 5 (((A.onEpd fun d => { d with spiConnected := true, pinLinesLow := false }).emit
      (.spiMux true)).withHostPos p4) (by simpa using eA)
    generalize hB : (A.onEpd fun d => { d with spiConnected := true, pinLinesLow := false }).emit (.spiMux true) = B
      at g5
    have eB : B.env = s.env := by rw [← hB]; simpa using eA
    obtain ⟨p6, g6⟩ := hq 6 ((B.emit (.sleep s.cfg.tSettle1)).withHostPos p5) (by simpa using eB)
    generalize hC : ((B.emit (.sleep s.cfg.tSettle1)).onEpd fun d => { d with pinRst := !s.cfg.rstActive }).emit
      (.pin .rst (!s.cfg.rstActive)) = C
    have eC : C.env = s.env := by rw [← hC]; simpa using eB
    obtain ⟨p7, g7⟩ := hq 7 (C.withHostPos p6) (by simpa using eC)
    have hfin : s.railUp = C.emit (.sleep s.cfg.tSettle2) := by
      rw [← hC, ← hB, ← hA]; simp [State.railUp, State.onEpd, State.emit, State.selected]
    obtain ⟨p, g⟩ := powerUpFrom8_run_quiet (s := s.railUp.withHostPos p7) h hb hl ht
      (State.railUp_ready hr) rfl caller
    refine ⟨p, ?_⟩
    have hprog : (s.railUp.withHostPos p7).programmed.withHostPos p = s.railUp.programmed.withHostPos p := by
      simp only [State.programmed, State.powerOnSent, State.setupSent, State.withHostPos_cfg,
        State.withHostPos_tableSent, State.withHostPos_entrySent]
      rfl
    rw [hprog, hfin] at g
    rw [hfin]
    simp only [State.withHostPos_withHostPos] at g2 g3 g4 g5 g6 g7
    have hsel : (pinCsAll (!s.cfg.csActive)).run (s.withHostPos p2) =
        .ok () ((s.selected (!s.cfg.csActive)).withHostPos p2) := pinCsAll_run_quiet (s := s.withHostPos p2) h _
    have hs1 : (sleep s.cfg.tSettle1).run (B.withHostPos p5) = .ok () ((B.emit (.sleep s.cfg.tSettle1)).withHostPos p5) :=
      sleep_run_quiet (s := B.withHostPos p5) _ (by rw [State.withHostPos_env, eB]; exact h)
    have hs2 : (sleep s.cfg.tSettle2).run (C.withHostPos p7) = .ok () ((C.emit (.sleep s.cfg.tSettle2)).withHostPos p7) :=
      sleep_run_quiet (s := C.withHostPos p7) _ (by rw [State.withHostPos_env, eC]; exact h)
    simp only [powerUpIfNeeded, EStateM.run_bind, g1, run_get_ok, State.withHostPos_epd, hp, State.withHostPos_cfg,
      pinPwr, spiMux, pinRst, Bool.not_true]
    simp only [reduceCtorEq, if_false, EStateM.run_bind, g2, hsel, g3, setEpd_run, emit_run,
      State.withHostPos_onEpd, State.withHostPos_emit, hA, g4, hB, g5, hs1, g6, hC, g7, hs2, g]

/-- The points of `Shutdown()` as a procedure (R86). -/
theorem shutdownPoint_run_quiet (h : s.env.sched = []) (n : Nat) :
    ∃ p, (shutdownPoint n).run s = .ok () (s.withHostPos p) := by
  refine ⟨s.hostPos, ?_⟩
  rw [shutdownPoint, run_ite, tick_run_quiet h]
  split <;> rfl

/-- `Shutdown()` with no agent scheduled (R86), and what it leaves of the rest. -/
theorem shutdown_run_quiet (h : s.env.sched = []) (ht : TablesOk s.cfg) (hr : s.ShifterReady)
    (hpc : s.epd.epdPowered = true → s.epd.spiConnected = true) {point : Nat → M Unit}
    (hpt : ∀ n (t : State), t.env = s.env → ∃ p, (point n).run t = .ok () (t.withHostPos p)) :
    (∃ p, (shutdown point).run s = .ok () (s.shutDown.withHostPos p)) ∧ s.shutDown.epd.epdPowered = false ∧
      s.shutDown.env = s.env ∧ s.shutDown.cfg = s.cfg ∧ s.shutDown.draw = s.draw ∧
      (s.epd.epdPowered = true → s.shutDown.epd.spiBusy = false) := by
  obtain ⟨p1, g1⟩ := hpt 1 s rfl
  by_cases hp : s.epd.epdPowered = false
  · have : s.shutDown = s := by rw [State.shutDown, if_pos hp]
    rw [this]
    refine ⟨⟨p1, ?_⟩, hp, rfl, rfl, rfl, fun h' => by simp [h'] at hp⟩
    simp [shutdown, EStateM.run_bind, g1, hp]
  · have hc := hpc (by simpa using hp)
    obtain ⟨-, a1, a2, a3, a4, a5, a6⟩ := entries_run_quiet (panelTable s.cfg s.cfg.tablePowerdown) h hc hr
    have hbusy : (s.tableSent (panelTable s.cfg s.cfg.tablePowerdown)).drained.epd.spiBusy = false := by
      rw [State.drained]
      split
      · rfl
      · rename_i hno
        by_contra hb
        have hb : (s.tableSent (panelTable s.cfg s.cfg.tablePowerdown)).epd.spiBusy = true := by simpa using hb
        obtain ⟨_, hh⟩ := a1 hb
        rcases hx : (s.tableSent (panelTable s.cfg s.cfg.tablePowerdown)).epd.spiHold with _ | ⟨t, k, b⟩
        · exact hh hx
        · exact hno t k b hb hx
    rw [State.shutDown, if_neg hp]
    refine ⟨?_, rfl, by simpa using a3, by simpa using a4, by simpa using a5, fun _ => hbusy⟩
    obtain ⟨p2, g2⟩ := hpt 2 (s.withHostPos p1) rfl
    have t2 := sendTable_run_quiet (s := s.withHostPos p2) h hc hr ht.2.2.1
    rw [State.withHostPos_tableSent, State.withHostPos_cfg] at t2
    generalize s.tableSent (panelTable s.cfg s.cfg.tablePowerdown) = t1 at a1 a3 a4 t2
    have cd : t1.drained.cfg = s.cfg := by rw [State.drained_cfg, a4]
    have ed : t1.drained.env = s.env := by rw [State.drained_env, a3]
    have hd : ∀ p, spiDrain.run (t1.withHostPos p) = .ok () (t1.drained.withHostPos p) := fun p => by
      rw [spiDrain_run_quiet (s := t1.withHostPos p) (by rw [State.withHostPos_env, a3]; exact h) a1,
        State.withHostPos_drained]
    obtain ⟨p3, g3⟩ := hpt 3 (t1.withHostPos p2) (by simpa using a3)
    obtain ⟨p4, g4⟩ := hpt 4 (t1.drained.withHostPos p3) (by simpa using a3)
    generalize t1.drained = t at g4 cd ed hd
    obtain ⟨p5, g5⟩ := hpt 5 (((t.onEpd fun d => { d with spiConnected := false, pinLinesLow := true }).emit
      (.spiMux false)).withHostPos p4) (by simpa using ed)
    generalize hB : (t.onEpd fun d => { d with spiConnected := false, pinLinesLow := true }).emit (.spiMux false) = B
      at g5
    have eB : B.env = s.env := by rw [← hB]; simpa using ed
    obtain ⟨p6, g6⟩ := hpt 6 ((B.selected false).withHostPos p5) (by simpa using eB)
    have hsel : (pinCsAll false).run (B.withHostPos p5) = .ok () ((B.selected false).withHostPos p5) :=
      pinCsAll_run_quiet (s := B.withHostPos p5) (by rw [State.withHostPos_env, eB]; exact h) _
    generalize hC : ((B.selected false).onEpd fun d => { d with pinRst := false }).emit (.pin .rst false) = C
    have eC : C.env = s.env := by rw [← hC]; simpa using eB
    obtain ⟨p7, g7⟩ := hpt 7 (C.withHostPos p6) (by simpa using eC)
    generalize hD : (C.onEpd fun d => { d with pinPwr := s.cfg.pwrOffLevel }).emit (.pin .pwr s.cfg.pwrOffLevel) = D
    have eD : D.env = s.env := by rw [← hD]; simpa using eC
    obtain ⟨p8, g8⟩ := hpt 8 (D.withHostPos p7) (by simpa using eD)
    obtain ⟨p9, g9⟩ := hpt 9 ((D.onEpd fun d => { d with epdPowered := false }).withHostPos p8) (by simpa using eD)
    obtain ⟨p10, g10⟩ := hpt 10 (((D.onEpd fun d => { d with epdPowered := false }).onEpd fun d =>
      { d with streamIdx := 0 }).withHostPos p9) (by simpa using eD)
    refine ⟨p10, ?_⟩
    simp only [State.withHostPos_withHostPos] at g2 g3 g4 g5 g6 g7 g8 g9 g10
    have hfalse : (s.epd.epdPowered = false) = False := by simpa using hp
    simp only [shutdown, EStateM.run_bind, g1, run_get_ok, State.withHostPos_epd, hfalse, if_false,
      State.withHostPos_cfg, g2, t2, g3, hd, g4, spiMux, setEpd_run, emit_run, State.withHostPos_onEpd,
      State.withHostPos_emit, Bool.not_false, hB, g5, hsel, g6, pinRst, hC, g7, pinPwr, hD, g8, g9, g10]
    rw [← hD, ← hC, ← hB]
    simp [State.onEpd, State.emit, State.selected, cd, State.withHostPos]

/-! ### Going on at a hold -/

/-- With no interrupt pending and no byte in the shifter no fair agent steps (R113). -/
theorem fairWhenUnscheduled_run_held (h : s.HeldQuiet) : fairWhenUnscheduled.run s = .ok () s := by
  obtain ⟨-, -, hq, hp, hb⟩ := h
  have hisr : (takeMove .isr).run s = .ok () s := by
    simp [takeMove, isrStep, EStateM.run_bind, hp]
  have hspi : (takeMove .spiStep).run s = .ok () s := by
    simp [takeMove, spiStep, EStateM.run_bind, hb]
  have hq' : s.env.sched = [] := hq
  simp only [fairWhenUnscheduled, EStateM.run_bind, run_get_ok, hq', fairAgents, forEach_cons_run, hisr, hspi,
    forEach_nil_run]

/-- The next step of a block that stands at a hold is the host going on there (R9, R114). -/
theorem step_of_held (h : s.HeldQuiet) (hpos : s.hostPos ≠ .idle) : step s = .next (goOn s) := by
  obtain ⟨⟨hf, hr⟩, hs, -⟩ := h
  rw [step, hf, hr]
  simp only [nextTurn, hs, Bool.true_eq_false, if_false]
  cases hp : s.hostPos <;> simp_all

/-! ### The chunk -/

theorem scratchWrites_run_from (f : Nat → Byte) (k n : Nat) (h : k + n ≤ s.cfg.scratchSize) :
    (forEach (fun i => scratchWrite i (f i)) (List.range' k n)).run s =
      .ok () (s.onDraw fun d => { d with scratch := d.scratch.writeBytes k ((List.range' k n).map f) }) := by
  induction n generalizing k s with
  | zero => rfl
  | succ n ih =>
    rw [List.range'_succ, forEach_cons_run]
    simp only [EStateM.run_bind, scratchWrite_run, show ¬s.cfg.scratchSize ≤ k by omega, if_false]
    rw [ih (s := s.onDraw _) (k + 1) (by simp only [State.onDraw_cfg]; omega)]
    rfl

/-- The chunk's cells written in order (R94 lines 17 and 20, R95 line 8). -/
theorem scratchWrites_run (f : Nat → Byte) (n : Nat) (h : n ≤ s.cfg.scratchSize) :
    (forEach (fun i => scratchWrite i (f i)) (List.range n)).run s = .ok () (s.chunkSet ((List.range n).map f)) := by
  rw [List.range_eq_range']
  exact scratchWrites_run_from f 0 n (by omega)

/-- The chunk becomes zero bytes (R94 line 20, R95 line 8). -/
theorem zeroChunk_run (h : chunkBytes s.cfg ≤ s.cfg.scratchSize) : zeroChunk.run s = .ok () s.chunkZeroed := by
  rw [zeroChunk, run_bind_ok (run_get_ok s), scratchWrites_run (fun _ => 0#8) _ h, State.chunkZeroed]
  simp

/-- The chunk is read from FLASH with no agent scheduled (R94 lines 16 to 18). -/
theorem loadChunk_run_quiet (hq : s.env.sched = []) (h : chunkBytes s.cfg ≤ s.cfg.scratchSize) {ptr : U24}
    (hp : s.draw.flashPtr = some ptr) :
    loadChunk.run s = .ok () ((s.chunkLoaded ptr).withHostPos (.line 0x20#8 18)) := by
  simp only [loadChunk, EStateM.run_bind, run_get_ok, hp, readReg_some_run, emit_run]
  rw [atLine_run_quiet (by simpa using hq)]
  simp only
  rw [scratchWrites_run (s := (s.emit _).withHostPos _) (fun i => flashRead s.env (ptr + BitVec.ofNat 24 i)) _ (by simpa using h)]
  simp only
  rw [atLine_run_quiet (by simpa [State.chunkSet] using hq)]
  rfl

/-! ### HOST reads -/

theorem hostRead_run_of_holds {a : Nat} {bs : List Byte} (hh : s.HostHolds a bs) {i : Nat} {b : Byte}
    (hi : bs[i]? = some b) : (hostRead (a + i)).run s = .ok b s := by
  obtain ⟨hlen, hread⟩ := hh
  have hlt : i < bs.length := by
    by_contra hge
    rw [List.getElem?_eq_none (by omega)] at hi
    exact absurd hi (by simp)
  rw [hostRead_run, if_neg (by omega), hread i hlt, hi]

/-- The HOST bytes of a run that HOST holds (R28). -/
theorem hostReadBytes_run_of_holds {a : Nat} {bs : List Byte} (hh : s.HostHolds a bs) :
    (hostReadBytes a bs.length).run s = .ok bs s := by
  induction bs generalizing a with
  | nil => rfl
  | cons b bs ih =>
    have h0 : (hostRead a).run s = .ok b s := by
      have := hostRead_run_of_holds hh (i := 0) (b := b) rfl
      simpa using this
    have htail : s.HostHolds (a + 1) bs := by
      refine ⟨by have := hh.1; simp at this; omega, fun i hi => ?_⟩
      have := hh.2 (i + 1) (by simpa using hi)
      rw [show a + 1 + i = a + (i + 1) by omega, this]
      rfl
    simp only [List.length_cons, hostReadBytes, EStateM.run_bind, h0, ih htail]
    rfl

/-- A 16-bit field of an argument block (R28). -/
theorem hostU16_run_of_holds {a : Nat} {bs : List Byte} (hh : s.HostHolds a bs) {i : Nat} {lo hi : Byte}
    (h0 : bs[i]? = some lo) (h1 : bs[i + 1]? = some hi) :
    (hostU16 (a + i)).run s = .ok (lo.toNat + 256 * hi.toNat) s := by
  have r1 := hostRead_run_of_holds hh h1
  rw [← Nat.add_assoc] at r1
  simp only [hostU16, EStateM.run_bind, hostRead_run_of_holds hh h0, r1]
  rfl

end Sys2Proof.Machine
end

