-- ==== Sys2Proof/Laws/Keeps.lean ====
section
/-! SUPPORT. Relations that a piece of a command keeps between the state it starts from and the state it leaves,
however it ends and whatever the schedule puts between its lines: one rule for each way a command is put together.
A frame takes "these fields are equal" for the relation, an invariant takes "if it held it holds". -/

namespace Sys2Proof.Machine

variable {α β : Type} {R : State → State → Prop}

/-- The state a run leaves, however it ends. -/
def leftState : EStateM.Result Stop State α → State
  | .ok _ t => t
  | .error _ t => t

/-- Every run of `m` leaves a state related to the one it starts from. -/
def Keeps (R : State → State → Prop) (m : M α) : Prop := ∀ s, R s (leftState (m.run s))

/-- What a relation needs to be kept by a sequence. -/
structure Chains (R : State → State → Prop) : Prop where
  refl : ∀ s, R s s
  trans : ∀ {s t u}, R s t → R t u → R s u

theorem Keeps.of_ok {m : M α} (h : Keeps R m) {s t : State} {a : α} (hm : m.run s = .ok a t) : R s t := by
  simpa [hm, leftState] using h s

theorem Keeps.of_error {m : M α} (h : Keeps R m) {s t : State} {e : Stop} (hm : m.run s = .error e t) : R s t := by
  simpa [hm, leftState] using h s

theorem keeps_pure (c : Chains R) (a : α) : Keeps R (pure a : M α) := fun s => c.refl s

theorem keeps_get (c : Chains R) : Keeps R (get : M State) := fun s => c.refl s

theorem keeps_raise (c : Chains R) (f : Fault) : Keeps R (raise f : M α) := fun s => c.refl s

theorem keeps_refuse (c : Chains R) (x : Refusal) : Keeps R (refuse x : M α) := fun s => c.refl s

theorem keeps_stayAt (c : Chains R) (p : HostPos) : Keeps R (stayAt p : M α) := fun s => c.refl s

theorem keeps_readReg (c : Chains R) (no : Nat) (r : Option α) : Keeps R (readReg no r) := by
  cases r with
  | none => exact keeps_raise c _
  | some a => exact keeps_pure c a

theorem keeps_modify {f : State → State} (h : ∀ s, R s (f s)) : Keeps R (modify f : M Unit) := h

theorem keeps_bind (c : Chains R) {m : M α} {f : α → M β} (hm : Keeps R m) (hf : ∀ a, Keeps R (f a)) :
    Keeps R (m >>= f) := by
  intro s
  rw [EStateM.run_bind]
  cases h : m.run s with
  | ok a t => exact c.trans (hm.of_ok h) (hf a t)
  | error e t => exact hm.of_error h

/-- After reading the state the rest may use it: it is the state the rest starts from. -/
theorem keeps_get_bind {f : State → M β} (h : ∀ s, R s (leftState ((f s).run s))) : Keeps R (get >>= f) := h

theorem keeps_ite {p : Prop} [Decidable p] {m n : M α} (hm : p → Keeps R m) (hn : ¬p → Keeps R n) :
    Keeps R (if p then m else n) := by
  split
  · exact hm ‹_›
  · exact hn ‹_›

theorem keeps_forEach (c : Chains R) {f : α → M Unit} (h : ∀ a, Keeps R (f a)) (as : List α) :
    Keeps R (forEach f as) := by
  induction as with
  | nil => exact keeps_pure c ()
  | cons a as ih => exact keeps_bind c (h a) fun _ => ih

theorem keeps_forLine (c : Chains R) {head : M Unit} (hh : Keeps R head) {f : α → M Unit} (h : ∀ a, Keeps R (f a))
    (as : List α) : Keeps R (forLine head f as) :=
  keeps_bind c (keeps_forEach c (fun a => keeps_bind c hh fun _ => h a) as) fun _ => hh

theorem keeps_oneStep (c : Chains R) {m : M Unit} (h : Keeps R m) : Keeps R (oneStep m) := by
  intro s
  rw [oneStep_run]
  cases hm : m.run s with
  | ok a t => exact h.of_ok hm
  | error e t => exact c.refl s

theorem keeps_atomic (c : Chains R) (hie : ∀ s b, R s (s.onIrq fun q => { q with ie := b })) {m : M α}
    (h : Keeps R m) : Keeps R (atomic m) := by
  intro s
  rw [atomic_run]
  cases hm : m.run (s.onIrq fun q => { q with ie := false }) with
  | ok a t => exact c.trans (c.trans (hie s false) (h.of_ok hm)) (hie t s.irq.ie)
  | error e t => exact c.trans (hie s false) (h.of_error hm)

/-- A point between two lines keeps what every agent's step keeps. -/
theorem keeps_tick (c : Chains R) (henv : ∀ s f, R s (s.onEnv f)) (hmove : ∀ m, Keeps R (takeMove m)) :
    Keeps R tick := by
  refine keeps_get_bind fun s => ?_
  split
  · exact c.refl s
  · exact keeps_bind c (keeps_modify fun t => henv t _) (fun _ => keeps_forEach c hmove _) s

theorem keeps_command (c : Chains R) (hret : ∀ s op st,
    R s ((s.onRes fun r => { r with status := some st }).emit (.result op st))) {op : Byte} {body : M Status}
    (h : Keeps R body) : Keeps R (command op body) :=
  keeps_bind c h fun st s => hret s op st

theorem keeps_awaitBusyUpTo (c : Chains R) (htick : Keeps R tick) (hbusy : ∀ l, Keeps R (busyRead l))
    (level : Bool) (p : HostPos) (fuel : Nat) : Keeps R (awaitBusyUpTo level p fuel) := by
  induction fuel with
  | zero => exact keeps_stayAt c p
  | succ n ih =>
    exact keeps_bind c htick fun _ => keeps_bind c (hbusy level) fun b =>
      keeps_ite (fun _ => keeps_pure c ()) fun _ => ih

theorem keeps_awaitBusy (c : Chains R) (htick : Keeps R tick) (hbusy : ∀ l, Keeps R (busyRead l)) (level : Bool)
    (p : HostPos) : Keeps R (awaitBusy level p) :=
  keeps_bind c (keeps_get c) fun _ => keeps_awaitBusyUpTo c htick hbusy level p _

theorem keeps_hostRead (c : Chains R) (a : Nat) : Keeps R (hostRead a) := by
  intro s
  rw [hostRead_run]
  split
  · exact c.refl s
  · split <;> exact c.refl s

theorem keeps_hostReadBytes (c : Chains R) (a n : Nat) : Keeps R (hostReadBytes a n) := by
  induction n generalizing a with
  | zero => exact keeps_pure c []
  | succ n ih =>
    exact keeps_bind c (keeps_hostRead c a) fun _ => keeps_bind c (ih (a + 1)) fun _ => keeps_pure c _

theorem keeps_hostU16 (c : Chains R) (a : Nat) : Keeps R (hostU16 a) :=
  keeps_bind c (keeps_hostRead c a) fun _ => keeps_bind c (keeps_hostRead c (a + 1)) fun _ => keeps_pure c _

theorem keeps_ringRead (c : Chains R) (r : Fin 3) (o : Nat) : Keeps R (ringRead r o) := by
  intro s
  rw [ringRead_run]
  split
  · exact c.refl s
  · split <;> exact c.refl s

theorem keeps_scratchRead (c : Chains R) (o : Nat) : Keeps R (scratchRead o) := by
  intro s
  rw [scratchRead_run]
  split
  · exact c.refl s
  · split <;> exact c.refl s

theorem keeps_moveTo (hpos : ∀ s p, R s (s.withHostPos p)) (p : HostPos) : Keeps R (moveTo p) := fun s => hpos s p

theorem keeps_atLine (c : Chains R) (hpos : ∀ s p, R s (s.withHostPos p)) (htick : Keeps R tick) (op : Byte)
    (n : Nat) : Keeps R (atLine op n) :=
  keeps_bind c (keeps_moveTo hpos _) fun _ => htick

theorem keeps_powerAtLine (c : Chains R) (hpos : ∀ s p, R s (s.withHostPos p)) (htick : Keeps R tick)
    (caller : PowerCaller) (n : Nat) :
    Keeps R (caller.goTo n) ∧ Keeps R (caller.atLine n) ∧ Keeps R caller.finish := by
  have hgo : Keeps R (caller.goTo n) := by
    cases caller
    · exact keeps_moveTo hpos _
    all_goals exact keeps_pure c ()
  refine ⟨hgo, keeps_bind c hgo fun _ => htick, ?_⟩
  cases caller
  · exact keeps_atLine c hpos htick _ _
  all_goals exact keeps_pure c ()

theorem keeps_issue (c : Chains R) (hpos : ∀ s p, R s (s.withHostPos p)) (hret : ∀ s op st,
    R s ((s.onRes fun r => { r with status := some st }).emit (.result op st))) {op : Byte} {body : M Status}
    (h : Keeps R body) : Keeps R (issue op body) :=
  keeps_bind c (keeps_get c) fun _ => keeps_bind c (keeps_moveTo hpos _) fun _ =>
    keeps_bind c (keeps_command c hret h) fun _ => keeps_moveTo hpos _

/-- What a command leaves: what its body keeps, then the host's position and perhaps a mark. -/
theorem resumeCommand_keeps (c : Chains R) (hpos : ∀ s p, R s (s.withHostPos p))
    (hfault : ∀ s f, R s (s.withFault f)) (hrefuse : ∀ s x, R s (s.withRefusal x))
    (hret : ∀ s op st, R s ((s.onRes fun r => { r with status := some st }).emit (.result op st)))
    {op : Byte} {body : M Status} (h : Keeps R body) (s : State) : R s (resumeCommand op body s) := by
  have hc := keeps_command c hret h (op := op) s
  rw [resumeCommand]
  cases hr : (command op body).run s with
  | ok a t => rw [hr] at hc; exact c.trans hc (hpos t _)
  | error e t =>
    rw [hr] at hc
    cases e with
    | fault f => exact c.trans hc (c.trans (hfault t f) (hpos _ _))
    | refuse x => exact c.trans hc (c.trans (hrefuse t x) (hpos _ _))
    | hold p => exact c.trans hc (hpos t p)

theorem runCommand_keeps (c : Chains R) (hpos : ∀ s p, R s (s.withHostPos p)) (hfault : ∀ s f, R s (s.withFault f))
    (hrefuse : ∀ s x, R s (s.withRefusal x))
    (hret : ∀ s op st, R s ((s.onRes fun r => { r with status := some st }).emit (.result op st)))
    {op : Byte} {body : M Status} (h : Keeps R body) (s : State) : R s (runCommand op body s) :=
  c.trans (hpos s _) (resumeCommand_keeps c hpos hfault hrefuse hret h _)

/-- Every way a step can go on: a mark is written, an agent's step is taken, the host's store is made, or a command
runs, and nothing else. -/
theorem step_cases {s t : State} (h : step s = .next t) :
    s.faultMark = none ∧ s.refuseMark = none ∧
      ((∃ u, nextTurn s = .settled u ∧ t = u) ∨ ∃ i u, nextTurn s = .run i u ∧ exec i u = .next t) := by
  rw [step] at h
  split at h
  · cases h
  · split at h
    · cases h
    · refine ⟨by assumption, by assumption, ?_⟩
      split at h
      · exact .inl ⟨_, by assumption, by cases h; rfl⟩
      · exact .inr ⟨_, _, by assumption, h⟩

end Sys2Proof.Machine
end

