-- ==== Sys2Proof/Laws/Memory.lean ====
section
/-! SUPPORT. The laws of byte memories: a read after a write, the canonical form that every write keeps, and
that equal readings of canonical memories are equal memories. -/

namespace Sys2Proof.Machine

@[simp] theorem Memory.read_nil (k : Nat) : Memory.read [] k = none := rfl

@[simp] theorem Memory.wf_nil : Memory.wf [] = true := rfl

theorem Memory.wf_cons {a : Nat} {b : Byte} {m : Memory} :
    Memory.wf ((a, b) :: m) = true ↔ (∀ p ∈ m.head?, a < p.1) ∧ Memory.wf m = true := by
  cases m with
  | nil => simp [Memory.wf]
  | cons p m => obtain ⟨c, d⟩ := p; simp [Memory.wf]

/-- A canonical memory lists nothing below its first address. -/
theorem Memory.read_of_lt {m : Memory} (hm : Memory.wf m = true) {k : Nat}
    (hk : ∀ p ∈ m.head?, k < p.1) : m.read k = none := by
  induction m with
  | nil => rfl
  | cons p m ih =>
    obtain ⟨a, b⟩ := p
    have hlt : k < a := by simpa using hk
    obtain ⟨hhead, htail⟩ := Memory.wf_cons.1 hm
    have hne : a ≠ k := by omega
    simp only [Memory.read, hne, if_false]
    exact ih htail fun p hp => lt_trans hlt (hhead p hp)

theorem Memory.read_write_same (m : Memory) (k : Nat) (v : Byte) : (m.write k v).read k = some v := by
  induction m with
  | nil => simp [Memory.write, Memory.read]
  | cons p m ih =>
    obtain ⟨a, b⟩ := p
    simp only [Memory.write]
    split
    · simp [Memory.read]
    · split
      · simp [Memory.read]
      · have : a ≠ k := by omega
        simp [Memory.read, this, ih]

theorem Memory.read_write_other (m : Memory) {k j : Nat} (v : Byte) (h : j ≠ k) :
    (m.write k v).read j = m.read j := by
  induction m with
  | nil => simp [Memory.write, Memory.read, Ne.symm h]
  | cons p m ih =>
    obtain ⟨a, b⟩ := p
    simp only [Memory.write]
    split
    · simp [Memory.read, Ne.symm h]
    · split
      · next heq => subst heq; simp [Memory.read, Ne.symm h]
      · simp only [Memory.read, ih]

/-- What a write can do to a reading, in one equation. -/
theorem Memory.read_write (m : Memory) (k j : Nat) (v : Byte) :
    (m.write k v).read j = if j = k then some v else m.read j := by
  split
  · next h => subst h; exact Memory.read_write_same m j v
  · next h => exact Memory.read_write_other m v h

theorem Memory.write_head (m : Memory) (k : Nat) (v : Byte) :
    ∀ p ∈ (m.write k v).head?, p.1 = k ∨ ∀ q ∈ m.head?, p.1 = q.1 := by
  cases m with
  | nil => intro p hp; simp [Memory.write] at hp; subst hp; exact Or.inl rfl
  | cons q m =>
    obtain ⟨a, b⟩ := q
    intro p hp
    simp only [Memory.write] at hp
    split at hp
    · simp at hp; subst hp; exact Or.inl rfl
    · split at hp
      · simp at hp; subst hp; exact Or.inl rfl
      · simp at hp; subst hp; exact Or.inr (by simp)

/-- Every write keeps the canonical form. -/
theorem Memory.wf_write {m : Memory} (hm : Memory.wf m = true) (k : Nat) (v : Byte) :
    Memory.wf (m.write k v) = true := by
  induction m with
  | nil => rfl
  | cons p m ih =>
    obtain ⟨a, b⟩ := p
    obtain ⟨hhead, htail⟩ := Memory.wf_cons.1 hm
    simp only [Memory.write]
    split
    · next hlt => exact Memory.wf_cons.2 ⟨by simpa using hlt, hm⟩
    · split
      · next heq => subst heq; exact Memory.wf_cons.2 ⟨hhead, htail⟩
      · refine Memory.wf_cons.2 ⟨fun p hp => ?_, ih htail⟩
        rcases Memory.write_head m k v p hp with h | h
        · omega
        · cases m with
          | nil => simp [Memory.write] at hp; subst hp; simp; omega
          | cons q m => rw [h q (by simp)]; exact hhead q (by simp)

theorem Memory.wf_writeBytes {m : Memory} (hm : Memory.wf m = true) (k : Nat) (vs : List Byte) :
    Memory.wf (m.writeBytes k vs) = true := by
  induction vs generalizing m k with
  | nil => exact hm
  | cons v vs ih => exact ih (Memory.wf_write hm k v) (k + 1)

/-- A run of bytes changes no address below its first. -/
theorem Memory.read_writeBytes_below (m : Memory) {k j : Nat} (vs : List Byte) (h : j < k) :
    (m.writeBytes k vs).read j = m.read j := by
  induction vs generalizing m k with
  | nil => rfl
  | cons v vs ih =>
    simp only [Memory.writeBytes]
    rw [ih (m.write k v) (by omega), Memory.read_write_other m v (by omega)]

/-- A run of bytes changes no address past its last. -/
theorem Memory.read_writeBytes_above (m : Memory) {k j : Nat} (vs : List Byte) (h : k + vs.length ≤ j) :
    (m.writeBytes k vs).read j = m.read j := by
  induction vs generalizing m k with
  | nil => rfl
  | cons v vs ih =>
    simp only [List.length_cons] at h
    simp only [Memory.writeBytes]
    rw [ih (m.write k v) (by omega), Memory.read_write_other m v (by omega)]

/-- Inside the run each address holds its byte. -/
theorem Memory.read_writeBytes_inside (m : Memory) (k : Nat) (vs : List Byte) {i : Nat}
    (h : i < vs.length) : (m.writeBytes k vs).read (k + i) = some vs[i] := by
  induction vs generalizing m k i with
  | nil => simp at h
  | cons v vs ih =>
    simp only [Memory.writeBytes]
    cases i with
    | zero =>
      rw [Memory.read_writeBytes_below _ _ (by omega)]
      exact Memory.read_write_same m k v
    | succ i =>
      have := ih (m.write k v) (k + 1) (i := i) (by simpa using h)
      rw [show k + (i + 1) = k + 1 + i by omega, this]; rfl

/-- Canonical memories with equal readings are equal. -/
theorem Memory.eq_of_read {m n : Memory} (hm : Memory.wf m = true) (hn : Memory.wf n = true)
    (h : ∀ k, m.read k = n.read k) : m = n := by
  induction m generalizing n with
  | nil =>
    cases n with
    | nil => rfl
    | cons q n => obtain ⟨c, d⟩ := q; have := h c; simp [Memory.read] at this
  | cons p m ih =>
    obtain ⟨a, b⟩ := p
    cases n with
    | nil => have := h a; simp [Memory.read] at this
    | cons q n =>
      obtain ⟨c, d⟩ := q
      obtain ⟨hmh, hmt⟩ := Memory.wf_cons.1 hm
      obtain ⟨hnh, hnt⟩ := Memory.wf_cons.1 hn
      have hac : a = c := by
        rcases Nat.lt_trichotomy a c with hlt | heq | hgt
        · have := h a
          rw [Memory.read_of_lt hn (k := a) (by simpa using hlt)] at this
          simp [Memory.read] at this
        · exact heq
        · have := h c
          rw [Memory.read_of_lt hm (k := c) (by simpa using hgt)] at this
          simp [Memory.read] at this
      subst hac
      have hbd : b = d := by have := h a; simpa [Memory.read] using this
      subst hbd
      congr 1
      refine ih hmt hnt fun k => ?_
      by_cases hk : a = k
      · subst hk; rw [Memory.read_of_lt hmt hmh, Memory.read_of_lt hnt hnh]
      · have := h k; simpa [Memory.read, hk] using this

end Sys2Proof.Machine
end

