-- ==== Sys2Proof/Laws/PerInstr.lean ====
section
/-! SUPPORT. The two fields of a command's word (R40), constructor by constructor. -/

namespace Sys2Proof

theorem opcodeOf_mkWord (op : Byte) (opnd : U24) : opcodeOf (mkWord op opnd) = op :=
  BitVec.extractLsb'_append_eq_left

theorem operandOf_mkWord (op : Byte) (opnd : U24) : operandOf (mkWord op opnd) = opnd :=
  BitVec.extractLsb'_append_eq_right

theorem opcodeOf_encode (i : Instr) : opcodeOf (encode i) = i.opcode := opcodeOf_mkWord _ _

theorem operandOf_encode (i : Instr) : operandOf (encode i) = i.operand := operandOf_mkWord _ _

namespace Laws.Fields

/-- The command's word holds its opcode in bits 31..24 and its operand in bits 23..0 (R40). -/
def Statement (i : Instr) : Prop := opcodeOf (encode i) = i.opcode ∧ operandOf (encode i) = i.operand

theorem radioInit : Statement .radioInit := ⟨opcodeOf_encode _, operandOf_encode _⟩

theorem radioSetChannel (b : Byte) : Statement (.radioSetChannel b) := ⟨opcodeOf_encode _, operandOf_encode _⟩

theorem radioSetTxPower (b : Byte) : Statement (.radioSetTxPower b) := ⟨opcodeOf_encode _, operandOf_encode _⟩

theorem radioTransmit (a : U16) : Statement (.radioTransmit a) := ⟨opcodeOf_encode _, operandOf_encode _⟩

theorem radioEnableRx (f : Bool) : Statement (.radioEnableRx f) := ⟨opcodeOf_encode _, operandOf_encode _⟩

theorem radioReceive (a : U16) : Statement (.radioReceive a) := ⟨opcodeOf_encode _, operandOf_encode _⟩

theorem radioFlush : Statement .radioFlush := ⟨opcodeOf_encode _, operandOf_encode _⟩

theorem radioRxAckGetLast : Statement .radioRxAckGetLast := ⟨opcodeOf_encode _, operandOf_encode _⟩

theorem radioSetFreqTest (f : Bool) : Statement (.radioSetFreqTest f) := ⟨opcodeOf_encode _, operandOf_encode _⟩

theorem platformSetRadioEnabled (f : Bool) : Statement (.platformSetRadioEnabled f) := ⟨opcodeOf_encode _, operandOf_encode _⟩

theorem epdSendTable (b : Byte) : Statement (.epdSendTable b) := ⟨opcodeOf_encode _, operandOf_encode _⟩

theorem epdPowerUpIfNeeded : Statement .epdPowerUpIfNeeded := ⟨opcodeOf_encode _, operandOf_encode _⟩

theorem epdShutdown : Statement .epdShutdown := ⟨opcodeOf_encode _, operandOf_encode _⟩

theorem epdStartTransfer (f : Bool) : Statement (.epdStartTransfer f) := ⟨opcodeOf_encode _, operandOf_encode _⟩

theorem epdSendByte (b : Byte) : Statement (.epdSendByte b) := ⟨opcodeOf_encode _, operandOf_encode _⟩

theorem epdRefreshAndSleep : Statement .epdRefreshAndSleep := ⟨opcodeOf_encode _, operandOf_encode _⟩

theorem clientDrawImage (d : U24) : Statement (.clientDrawImage d) := ⟨opcodeOf_encode _, operandOf_encode _⟩

theorem clientDrawScreen (b : Byte) : Statement (.clientDrawScreen b) := ⟨opcodeOf_encode _, operandOf_encode _⟩

theorem clientSetWindowX (x : BitVec 12) (y : BitVec 12) : Statement (.clientSetWindowX x y) := ⟨opcodeOf_encode _, operandOf_encode _⟩

theorem clientSetWindowY (x : BitVec 12) (y : BitVec 12) : Statement (.clientSetWindowY x y) := ⟨opcodeOf_encode _, operandOf_encode _⟩

theorem clientLoadRawBitmap (a : U16) : Statement (.clientLoadRawBitmap a) := ⟨opcodeOf_encode _, operandOf_encode _⟩

theorem clientPrintBegin (a : U16) : Statement (.clientPrintBegin a) := ⟨opcodeOf_encode _, operandOf_encode _⟩

theorem clientWriteChar (b : Byte) : Statement (.clientWriteChar b) := ⟨opcodeOf_encode _, operandOf_encode _⟩

theorem clientPrintEnd : Statement .clientPrintEnd := ⟨opcodeOf_encode _, operandOf_encode _⟩

theorem clientPrintBarcode (a : U16) : Statement (.clientPrintBarcode a) := ⟨opcodeOf_encode _, operandOf_encode _⟩

end Laws.Fields

end Sys2Proof
end

