-- ==== Sys2Proof/Tests/Slice0.lean ====
section
/-! SUPPORT. Tests. The expected values are those of the vectors V1 to V62 of 95_test_vectors.md, worked there by hand
under the parameter record TC of its section 2. The witnesses at the end meet the hypotheses of the
statements, clause by clause. -/

namespace Sys2Proof.Tests

set_option Elab.async false

open Sys2Proof Sys2Proof.Machine

/-! ### The test states -/

/-- TC (95_test_vectors.md section 2), its functions as tables over the arguments the tests use. -/
def tc : Params where
  maxPayload := 20
  lowFirst := 100
  lowLast := 105
  highFirst := 200
  highLast := 210
  tableLow := [0x0D, 0x21, 0x0E, 0x65, 0xFF]
  tableHigh := [0x0D, 0x23, 0x0E, 0x31, 0xFF]
  tableTest := [0x12, 0x30, 0xFF]
  rfSentinel := 0xFF
  paCode := (List.range 21).map fun i => BitVec.ofNat 8 (0x10 + i)
  initTxDbm := 0
  chipIdExpected := 0x14
  regId := 0x31
  regChannr := 0x0A
  regPatable := 0x3E
  rssiWrap8 := false
  txTimeout := none
  assumeXcvrLive := true
  adcScale := [(2800, 2800), (2900, 2900)]
  hostMemSize := 0x1000
  numCtrl := 1
  tablePowerup := [2, 1, 7, 0]
  tableSetup := [1, 0x50, 0]
  tablePowerdown := [1, 2, 0]
  tableRefresh := [1, 0x12, 0]
  epdCountMode := .cmdAndData
  cmdPowerOn := 4
  cmdDtm1 := 0x10
  cmdDtm2 := 0x13
  cmdVcom := 0x82
  vcomCal := 0x28
  tSettle1 := 10
  tSettle2 := 10
  streamRoute := []
  csActive := false
  rstActive := false
  busyActive := false
  pwrOffLevel := true
  assumePanelLive := true
  screenW := 16
  screenH := 4
  bytesPerLine := 2
  linesPerChunk := 2
  numChunks := 2
  scratchSize := 4
  type1bpp := 0x20
  type2bpp := 0x21
  alwaysBothPasses := false
  nativeBpp := 1
  repack :=
    [Plane.mono, Plane.accent].flatMap fun p =>
      [0x00#8, 0x11#8, 0x22#8, 0x33#8, 0x44#8, 0x55#8, 0x66#8, 0x77#8, 0x88#8, 0xF0#8, 0x0F#8].map fun b =>
        ((p, b), [b])
  packedPlanes := false
  planeBias := 0
  glyph := [((1, 0x41), 1)]
  barcodeBars := [([0x31], [true, false, true, true])]
  barcodeHeight := 2
  callback :=
    [(7, []), (1, [0x24000300#32]), (2, [0x14000000#32])].flatMap fun (id, words) =>
      [Plane.mono, Plane.accent].flatMap fun p =>
        [0, 1].flatMap fun c => [0, 1, 2, 3].map fun y => ((id, y, c, p), words)

/-- An environment with no agent scheduled and nothing listed. -/
def calm : Env :=
  { sched := [], idBytes := [], busy := [], adc := [], keep := [], acks := [], race := [], flash := [],
    draws := 0 }

/-- After reset under TC, started, with no agent scheduled. -/
def rst : State :=
  { State.reset with cfg := tc, env := calm, started := true, epd := { State.reset.epd with pinPwr := true } }

/-- The shadow registers after V2. -/
def bandHigh : Memory := [(0x0D, 0x23), (0x0E, 0x31), (0x3E, 0x1F)]

/-- A ready radio (95_test_vectors.md, notation). -/
def ready : State :=
  { rst with
    radio :=
      { probed := true, present := true, initialized := true, enabled := true, freqTest := false,
        irqRaisedRx := false, cfgPtr := .high, curBand := some .high, curChanr := none, txPowerIdx := some 15 },
    ring := { cells := [], writeIdx := some 0, readIdx := some 0, freeCount := some 3 },
    xreg := bandHigh }

/-- Ready, RX on. -/
def listening : State :=
  { ready with arb := { ready.arb with rxEnabled := true, rxArmed := true, radioState := .rx } }

/-- `s` in test mode (V7). -/
def inTest (s : State) : State :=
  { s with
    radio := { s.radio with freqTest := true, cfgPtr := .test, curBand := some .low, curChanr := some 9#8 },
    arb := { s.arb with rxArmed := false, radioState := .idle } }

/-- `bs` stored in HOST from `a` on. -/
def poke (a : Nat) (bs : List Byte) (s : State) : State := { s with hostMem := s.hostMem.writeBytes a bs }

/-- `bs` in ring slot `r`, with `n` slots free, the read index at `rd` and the write index at `wr`. -/
def pending (r : Fin 3) (bs : List Byte) (rd wr : Fin 3) (n : Nat) (s : State) : State :=
  { s with
    ring := { cells := s.ring.cells.writeBytes (ringAddr r 0) bs, writeIdx := some wr, readIdx := some rd,
              freeCount := some n } }

/-- A frame is complete in slot `r`, its interrupt pending, with `n` slots free. -/
def arrived (r : Fin 3) (bs : List Byte) (n : Nat) : State :=
  pending r bs 0 r n
    { listening with
      arb := { listening.arb with rxArmed := false, radioState := .idle },
      irq := { ie := true, rxDonePending := true } }

/-- The panel powered, as after V30. -/
def powered : State :=
  { rst with
    epd := { rst.epd with
              epdPowered := true, spiConnected := true, pinPwr := false, pinRst := true, pinCsM := true,
              pinLinesLow := false } }

/-- Inside a callback, pass `p`, the chunk at line `top` zeroed and the window the full screen. -/
def drawing (top : U16) (p : Plane) : State :=
  { rst with
    draw := { rst.ctxReset.draw with
              drawing := true, passPlane := some p, chunkStartY := some top,
              scratch := [(0, 0), (1, 0), (2, 0), (3, 0)] } }

/-- Inside a text run at `(x, y)` (V50). -/
def texting (top x y : U16) (d : Direction) : State :=
  { drawing top .mono with
    draw := { (drawing top .mono).draw with
              curX := some x, curY := some y, direction := some d, fontSize := some 1, color := some .mono,
              printing := true } }

/-- What the step leaves that runs the word `w`. -/
def ran (w : Word) (s : State) : State :=
  match step (s.withFetchWord 32 w.toNat) with
  | .next t => t
  | .fault _ | .refused _ => s

/-- What a step leaves that takes `m` while the host is idle. -/
def moved (m : Move) (s : State) : State :=
  match step { s with env := { s.env with sched := [[m]] } } with
  | .next t => t
  | .fault _ | .refused _ => s

/-- The panel bytes of a trace. -/
def panelBytes (t : State) : List Byte :=
  t.trace.filterMap fun e =>
    match e with
    | .panelByte _ _ b => some b
    | _ => none

/-! ### Syntax -/

theorem test_table_id_four_is_ill_formed : (Instr.epdSendTable 4).wellFormed = false := by decide

theorem test_table_id_three_is_well_formed : (Instr.epdSendTable 3).wellFormed = true := by decide

/-! ### Decoding: words written out from 30_encoding.md -/

/-- The two fields put together by hand: `0000 0010` and then `0000 0000 0000 0000 0110 0111`. -/
theorem test_word_bit_by_bit : decode 0b00000010000000000000000001100111#32 = .ok (.radioSetChannel 103) := by decide

theorem test_decode_radioInit : decode 0x01000000#32 = .ok .radioInit := by decide
theorem test_decode_radioSetChannel : decode 0x020000C8#32 = .ok (.radioSetChannel 200) := by decide
theorem test_decode_radioSetTxPower : decode 0x0300009C#32 = .ok (.radioSetTxPower 0x9C) := by decide
theorem test_decode_radioTransmit : decode 0x04000100#32 = .ok (.radioTransmit 0x0100) := by decide
theorem test_decode_radioEnableRx : decode 0x05000001#32 = .ok (.radioEnableRx true) := by decide
theorem test_decode_radioReceive : decode 0x06000200#32 = .ok (.radioReceive 0x0200) := by decide
theorem test_decode_radioFlush : decode 0x07000000#32 = .ok .radioFlush := by decide
theorem test_decode_radioRxAckGetLast : decode 0x08000000#32 = .ok .radioRxAckGetLast := by decide
theorem test_decode_radioSetFreqTest : decode 0x09000001#32 = .ok (.radioSetFreqTest true) := by decide
theorem test_decode_platformSetRadioEnabled : decode 0x0A000000#32 = .ok (.platformSetRadioEnabled false) := by
  decide
theorem test_decode_epdSendTable : decode 0x10000003#32 = .ok (.epdSendTable 3) := by decide
theorem test_decode_epdPowerUpIfNeeded : decode 0x11000000#32 = .ok .epdPowerUpIfNeeded := by decide
theorem test_decode_epdShutdown : decode 0x12000000#32 = .ok .epdShutdown := by decide
theorem test_decode_epdStartTransfer : decode 0x13000001#32 = .ok (.epdStartTransfer true) := by decide
theorem test_decode_epdSendByte : decode 0x140000A5#32 = .ok (.epdSendByte 0xA5) := by decide
theorem test_decode_epdRefreshAndSleep : decode 0x15000000#32 = .ok .epdRefreshAndSleep := by decide
theorem test_decode_clientDrawImage : decode 0x20FFFFFF#32 = .ok (.clientDrawImage 0xFFFFFF) := by decide
theorem test_decode_clientDrawScreen : decode 0x21000007#32 = .ok (.clientDrawScreen 7) := by decide
theorem test_decode_clientSetWindowX : decode 0x22004008#32 = .ok (.clientSetWindowX 4 8) := by decide
theorem test_decode_clientSetWindowY : decode 0x23003005#32 = .ok (.clientSetWindowY 3 5) := by decide
theorem test_decode_clientLoadRawBitmap : decode 0x24000300#32 = .ok (.clientLoadRawBitmap 0x0300) := by decide
theorem test_decode_clientPrintBegin : decode 0x25000300#32 = .ok (.clientPrintBegin 0x0300) := by decide
theorem test_decode_clientWriteChar : decode 0x26000041#32 = .ok (.clientWriteChar 0x41) := by decide
theorem test_decode_clientPrintEnd : decode 0x27000000#32 = .ok .clientPrintEnd := by decide
theorem test_decode_clientPrintBarcode : decode 0x28000400#32 = .ok (.clientPrintBarcode 0x0400) := by decide

/-- V60. -/
theorem test_reserved_opcodes_refused :
    [0x00000000#32, 0x0B000000#32, 0x0F000000#32, 0x16000000#32, 0x1F000000#32, 0x29000000#32, 0xFF000000#32].all
      (fun w => decide (decode w = .error (.reservedOpcode w))) = true := by decide

/-- V60: the reserved bits come before the table id. -/
theorem test_reserved_bits_refused :
    [0x01000001#32, 0x05000002#32, 0x02000100#32, 0x04010000#32, 0x10000104#32].all
      (fun w => decide (decode w = .error (.reservedBits w))) = true := by decide

/-- V60. -/
theorem test_reserved_operand_refused :
    decode 0x10000004#32 = .error (.reservedOperand 0x10000004#32) := by decide

/-- V62. -/
theorem test_assembler :
    (assemble "RADIO_RX_ON" []).map encode = some 0x05000001#32 ∧
      (assemble "RADIO_RX_OFF" []).map encode = some 0x05000000#32 ∧
      (assemble "EPD_START_MONO" []).map encode = some 0x13000000#32 ∧
      (assemble "EPD_START_ACCENT" []).map encode = some 0x13000001#32 ∧
      (assemble "RADIO_SET_TX_POWER" [-100]).map encode = some 0x0300009C#32 ∧
      (assemble "CLIENT_SET_WINDOW_X" [4, 8]).map encode = some 0x22004008#32 ∧
      assemble "RADIO_SET_CHANNEL" [256] = none := by decide

/-- The word placed at reset is the first instruction the step runs (log entry 9). -/
theorem test_fetch_word_runs_first :
    step (State.reset.withFetchWord 32 0x04000100) = exec (.radioTransmit 0x0100) { State.reset with started := true } :=
  rfl

/-! ### The radio half -/

theorem test_tc_is_a_configuration : paramsOk tc = true := by decide +kernel

/-- V38: TC's tables do not fit the other count mode. -/
theorem test_wrong_count_mode_refused : paramsOk { tc with epdCountMode := .dataOnly } = false := by decide +kernel

/-- V2. -/
theorem test_radio_init :
    let t := ran 0x01000000#32 { rst with env := { calm with idBytes := [0x14] } }
    t.trace = [.strobe .sres, .busRead 0x31 0x14, .busWrite 0x0D 0x23, .busWrite 0x0E 0x31, .busWrite 0x3E 0x1F,
      .result 0x01 .ok] ∧ t.radio = ready.radio ∧ t.ring = ready.ring ∧ t.xreg = bandHigh := by decide +kernel

/-- V3. -/
theorem test_radio_init_wrong_identity :
    let t := ran 0x01000000#32 { rst with env := { calm with idBytes := [0x00] } }
    t.res.status = some .hwNotFound ∧ t.radio.probed = true ∧ t.radio.present = false := by decide +kernel

/-- V5. -/
theorem test_set_channel_low :
    (ran 0x02000067#32 ready).trace =
      [.busWrite 0x0D 0x21, .busWrite 0x0E 0x65, .busWrite 0x0A 0x09, .result 0x02 .ok] := by decide +kernel

/-- V5. -/
theorem test_set_channel_high_and_outside :
    (ran 0x020000D2#32 ready).trace = [.busWrite 0x0A 0x78, .result 0x02 .ok] ∧
      (ran 0x02000096#32 ready).trace = [.busWrite 0x0A 0x00, .result 0x02 .ok] := by decide +kernel

/-- V6. -/
theorem test_set_tx_power :
    ([0x03000080#32, 0x030000E3#32, 0x030000E4#32, 0x03000000#32, 0x03000009#32, 0x0300007F#32].map fun w =>
      (ran w ready).radio.txPowerIdx) = [some 0, some 0, some 1, some 15, some 19, some 20] := by decide +kernel

/-- V7. -/
theorem test_freq_test_enter :
    let t := ran 0x09000001#32 listening
    t.trace = [.strobe .sidle, .busWrite 0x12 0x30, .result 0x09 .ok] ∧ t.radio.cfgPtr = .test ∧
      t.arb.rxArmed = false := by decide +kernel

/-- V7. -/
theorem test_freq_test_leave :
    (ran 0x09000000#32 (inTest listening)).trace =
      [.busWrite 0x0D 0x21, .busWrite 0x0E 0x65, .busWrite 0x0A 0x09, .rxArm 0, .strobe .srx, .result 0x09 .ok] := by
  decide +kernel

/-- V7's refusal and V61's order: the gate comes first. -/
theorem test_test_mode_after_gate :
    (ran 0x02000067#32 (inTest ready)).refuseMark = some .testMode ∧
      (ran 0x02000067#32 { inTest ready with radio := { (inTest ready).radio with enabled := false } }).res.status =
        some .notEnabled := by decide +kernel

/-- V8. -/
theorem test_transmit :
    let t := ran 0x04000100#32
      (poke 0x100 [3, 0xAA, 0xBB, 0xCC] { listening with env := { calm with adc := [3000, 2950] } })
    t.trace = [.strobe .sidle, .strobe .stx, .adc 3000, .txFrame [3, 0xAA, 0xBB, 0xCC], .adc 2950, .rxArm 0,
      .strobe .srx, .result 0x04 .ok] ∧ t.arb.txMinBatt = some 2950 ∧ t.res.value = some 1 := by decide +kernel

/-- V9, V10 and V11. -/
theorem test_transmit_buffer :
    (ran 0x04000100#32 (poke 0x100 [21] ready)).res.status = some .badOperand ∧
      (ran 0x04000FFE#32 (poke 0xFFE [3, 0xAA] ready)).faultMark = some (.range .host 0x1000) ∧
      (ran 0x04000FFE#32 (poke 0xFFE [3, 0xAA] ready)).trace = [.strobe .sidle] ∧
      (ran 0x04000500#32 ready).faultMark = some (.unwritten .host 0x500) := by decide +kernel

/-- V12: with the schedule giving no agent a turn, two polls end in the timeout. -/
theorem test_transmit_timeout :
    let t := ran 0x04000100#32 (poke 0x100 [1, 0x55]
      { listening with
        cfg := { tc with txTimeout := some 2 },
        env := { calm with adc := [3000, 2990], sched := List.replicate 30 [] } })
    t.trace = [.strobe .sidle, .strobe .stx, .adc 3000, .adc 2990, .strobe .sidle, .rxArm 0, .strobe .srx,
      .result 0x04 .transmitFailed] := by decide +kernel

/-- V16: the completion that receive's stop kept is taken while the block transmits, and re-arms nothing. -/
theorem test_transmit_keeps_a_completion :
    let t := ran 0x04000100#32 (poke 0x100 [1, 0x77]
      { arrived 0 [1, 0xB0, 0x80, 0x80] 3 with
        env := { calm with adc := [1, 2, 3, 4], keep := [true], sched := List.replicate 15 [] ++ [[.isr]] } })
    t.ring.writeIdx = some 1 ∧ t.ring.freeCount = some 2 ∧
      t.trace = [.strobe .sidle, .strobe .stx, .adc 1, .isrEntry true, .txFrame [1, 0x77], .adc 2, .rxArm 1,
        .strobe .srx, .result 0x04 .ok] := by decide +kernel

/-- V1, the frame's arrival. -/
theorem test_frame_arrival :
    let t := moved (.frameArrival [2, 0x11, 0x22, 0x80, 0x1E]) listening
    t.arb.rxArmed = false ∧ t.irq.rxDonePending = true ∧
      t.ring.cells = [(0, 2), (1, 0x11), (2, 0x22), (3, 0x80), (4, 0x1E)] := by decide +kernel

/-- V1 and V15: a valid frame takes a slot, and the last free one is not armed again. -/
theorem test_isr_accepts :
    let t := moved .isr (arrived 0 [1, 0xA1, 0x80, 0x80] 3)
    let u := moved .isr (arrived 2 [1, 0xA3, 0x80, 0x80] 1)
    t.trace = [.isrEntry true, .rxArm 1, .strobe .srx] ∧ t.ring.freeCount = some 2 ∧
      u.trace = [.isrEntry true] ∧ u.ring.freeCount = some 0 ∧ u.ring.writeIdx = some 0 := by decide +kernel

/-- V13 and V14. -/
theorem test_isr_rejects :
    (moved .isr (arrived 0 [2, 0x11, 0x22, 0x80, 0x1E] 3)).trace = [.isrEntry false, .rxArm 0, .strobe .srx] ∧
      (moved .isr (arrived 0 [0, 0x55, 0x80] 3)).trace = [.isrEntry false, .rxArm 0, .strobe .srx] ∧
      (moved .isr (arrived 0 (21 :: List.replicate 22 0x80) 3)).ring.freeCount = some 3 := by decide +kernel

/-- V1. -/
theorem test_receive :
    let t := ran 0x06000200#32 (pending 0 [2, 0xA1, 0xA2, 0xC4, 0x9E] 0 1 2 ready)
    t.hostMem = [(0x200, 2), (0x201, 0xA1), (0x202, 0xA2)] ∧ t.res.lqi = some 236 ∧
      t.res.rssi = some (BitVec.ofInt 16 (-107)) ∧ t.res.value = some 2 ∧ t.ring.freeCount = some 3 := by
  decide +kernel

/-- V20 and V21. -/
theorem test_receive_empty_and_full :
    (ran 0x06000200#32 ready).res.status = some .noPackets ∧
      (ran 0x06000300#32 (pending 0 [1, 0xA1, 0x80, 0x80] 0 0 0
        { ready with arb := { ready.arb with rxEnabled := true } })).trace =
        [.rxArm 0, .strobe .srx, .result 0x06 .ok] := by decide +kernel

/-- V24. -/
theorem test_flush :
    let t := ran 0x07000000#32 (pending 0 [1, 0xA1, 0x80, 0x80] 0 0 0
      { ready with arb := { ready.arb with rxEnabled := true } })
    t.ring.freeCount = some 3 ∧ t.ring.readIdx = some 0 ∧ t.trace = [.rxArm 0, .strobe .srx, .result 0x07 .ok] := by
  decide +kernel

/-- V25. -/
theorem test_enable_rx :
    (ran 0x05000001#32 ready).trace = [.rxArm 0, .strobe .srx, .result 0x05 .ok] ∧
      (ran 0x05000000#32 (arrived 0 [1, 0xA1, 0x80, 0x80] 3)).irq.rxDonePending = false := by decide +kernel

/-- V26 and V4. -/
theorem test_rx_ack :
    (ran 0x08000000#32 { ready with env := { calm with acks := [some 255] } }).res.value = some 255 ∧
      (ran 0x08000000#32 { ready with env := { calm with acks := [none] } }).res.value = some 0xFFFF ∧
      (ran 0x08000000#32 rst).res.status = some .notInitialized := by decide +kernel

/-- V4 and V27. -/
theorem test_set_radio_enabled :
    (ran 0x0A000000#32 listening).radio.enabled = false ∧ (ran 0x0A000000#32 listening).arb = listening.arb := by
  decide +kernel

/-- V22. -/
theorem test_lqi :
    [0x00#8, 0x80#8, 0x15#8, 0x16#8, 0x9E#8, 0x40#8, 0x7F#8, 0xFF#8].map lqi =
      [255, 255, 255, 252, 236, 168, 42, 42] := by decide

/-- V23. -/
theorem test_rssi :
    ([0x00#8, 0x7F#8, 0xC4#8, 0xFF#8, 0x9F#8, 0x80#8].map fun b => (rssi tc b).toInt) =
      [-77, -14, -107, -78, -126, -141] ∧
    ([0x80#8, 0x99#8, 0x9A#8].map fun b => (rssi { tc with rssiWrap8 := true } b).toInt) = [115, 127, -128] := by
  decide +kernel

/-! ### The display half -/

/-- V30. -/
theorem test_power_up :
    let t := ran 0x11000000#32 { rst with env := { calm with busy := [true, false, true] } }
    t.trace = [.pin (.cs .master) true, .pin .pwr false, .spiMux true, .sleep 10, .pin .rst true, .sleep 10,
      .pin (.cs .master) false, .panelByte .m .cmd 0x01, .panelByte .m .data 0x07, .pin (.cs .master) true,
      .pin (.cs .master) false, .panelByte .m .cmd 0x04, .pin (.cs .master) true,
      .pin (.cs .master) false, .panelByte .m .cmd 0x50, .pin (.cs .master) true,
      .pin (.cs .master) false, .panelByte .m .cmd 0x82, .panelByte .m .data 0x28, .pin (.cs .master) true,
      .result 0x11 .ok] ∧ { t.epd with spiHold := none } = powered.epd := by decide +kernel

/-- V31. -/
theorem test_power_is_idempotent :
    (ran 0x11000000#32 powered).trace = [.result 0x11 .ok] ∧ (ran 0x12000000#32 rst).trace = [.result 0x12 .ok] := by
  decide +kernel

/-- V32. -/
theorem test_send_table :
    (ran 0x10000000#32 powered).trace = [.pin (.cs .master) false, .panelByte .m .cmd 0x01,
        .panelByte .m .data 0x07, .pin (.cs .master) true, .result 0x10 .ok] ∧
      (ran 0x10000002#32 powered).epd.epdPowered = true ∧
      (ran 0x10000000#32 rst).refuseMark = some .epdNotPowered := by decide +kernel

/-- V37. -/
theorem test_two_controllers :
    (ran 0x10000003#32 { powered with cfg := { tc with numCtrl := 2 } }).trace =
      [.pin (.cs .master) false, .pin (.cs .slave) false, .panelByte .ms .cmd 0x12, .pin (.cs .master) true,
        .pin (.cs .slave) true, .result 0x10 .ok] := by decide +kernel

/-- V33. -/
theorem test_start_transfer :
    panelBytes (ran 0x13000000#32 rst) = [0x01, 0x07, 0x04, 0x50, 0x82, 0x28, 0x10] ∧
      panelBytes (ran 0x13000001#32 powered) = [0x13] := by decide +kernel

/-- V34: the byte before leaves first, the byte itself may still be in the shifter. -/
theorem test_send_byte :
    let t := ran 0x1400005A#32
      { powered with
        epd := { powered.epd with spiBusy := true, spiHold := some (.m, .data, 0xA5), streamIdx := 1 } }
    panelBytes t = [0xA5] ∧ t.epd.spiBusy = true ∧ t.epd.streamIdx = 2 := by decide +kernel

/-- V35. -/
theorem test_refresh :
    let t := ran 0x15000000#32 { powered with env := { calm with busy := [false, true], adc := [2900, 2800] } }
    t.trace = [.pin (.cs .master) false, .panelByte .m .cmd 0x12, .pin (.cs .master) true, .sleep 50, .adc 2900,
      .sleep 50, .adc 2800, .baselineRepower, .pin (.cs .master) false, .panelByte .m .cmd 0x02,
      .pin (.cs .master) true, .spiMux false, .pin (.cs .master) false, .pin .rst false, .pin .pwr true,
      .result 0x15 .ok] ∧ t.epd.postRefreshBatt = some 2800 ∧ t.epd.epdPowered = false := by decide +kernel

/-- V36. -/
theorem test_shutdown :
    let t := ran 0x12000000#32 powered
    t.trace = [.pin (.cs .master) false, .panelByte .m .cmd 0x02, .pin (.cs .master) true, .spiMux false,
      .pin (.cs .master) false, .pin .rst false, .pin .pwr true, .result 0x12 .ok] ∧
      t.epd.pinLinesLow = true := by decide +kernel

/-- V39: readings that stay clear do not end the wait for busy of power-up's line 11: the host stays there. -/
theorem test_missed_busy_pulse_holds :
    (match (awaitBusyUpTo false (.busyWait .line11 .command) 3).run
        { powered with env := { calm with busy := [true, true, true] } } with
    | .error (.hold p) t => some (p, t.env.busy)
    | .error _ _ | .ok _ _ => none) = some (.busyWait .line11 .command, []) := by decide +kernel

/-! ### The draw client -/

/-- The bytes of V40's image, from FLASH address `a` on. -/
def image (a : Nat) : List Host.Cell :=
  [(a, 0x20), (a + 1, 0x11), (a + 2, 0x22), (a + 3, 0x33), (a + 4, 0x44), (a + 5, 0x55), (a + 6, 0x66), (a + 7, 0x77),
    (a + 8, 0x88)]

/-- V40. -/
theorem test_draw_image :
    let t := ran 0x20001000#32 { rst with env := { calm with flash := image 0x1000, adc := [2900] } }
    panelBytes t = [0x01, 0x07, 0x04, 0x50, 0x82, 0x28, 0x10, 0x11, 0x22, 0x33, 0x44, 0x55, 0x66, 0x77, 0x88, 0x12,
      0x02] ∧ flashReads t.trace = [(0x1000, 1), (0x1001, 4), (0x1005, 4)] ∧ t.draw.flashPtr = some 0x1009 ∧
      t.res.status = some .ok := by decide +kernel

/-- V41 and V53. -/
theorem test_draw_image_not_drawn :
    (ran 0x20003000#32 { rst with env := { calm with flash := [(0x3000, 0x55)] } }).trace =
        [.flashRead 0x3000 1, .log .unsupportedImage [0x55], .result 0x20 .unsupportedImage] ∧
      (ran 0x20001000#32 { rst with cfg := { tc with packedPlanes := true } }).refuseMark =
        some .unmodelledConfig := by decide +kernel

/-- P3. -/
theorem test_draw_screen :
    let t := ran 0x21000001#32
      (poke 0x300 [0, 0, 1, 0, 0, 8, 0, 2, 0, 0xF0, 0x0F] { rst with env := { calm with adc := [2900] } })
    panelBytes t = [0x01, 0x07, 0x04, 0x50, 0x82, 0x28, 0x10, 0x00, 0x00, 0xF0, 0x00, 0x0F, 0x00, 0x00, 0x00, 0x13,
      0, 0, 0, 0, 0, 0, 0, 0, 0x12, 0x02] ∧ t.res.status = some .ok ∧ t.draw.drawing = false := by decide +kernel

/-- V53. -/
theorem test_draw_screen_bad_callback :
    let t := ran 0x21000002#32 rst
    t.refuseMark = some (.badCallback 0x14000000) ∧ t.draw.drawing = true ∧ t.res.status = some .ok ∧
      (ran 0x27000000#32 rst).refuseMark = some (.notInDraw 0x27000000) := by decide +kernel

/-- R97. -/
theorem test_set_window_x :
    let t := ran 0x22004008#32 (drawing 0 .mono)
    t.draw.winX0 = some 4 ∧ t.draw.winX1 = some 12 ∧ t.draw.curX = some 4 := by decide +kernel

/-- V48. -/
theorem test_set_window_y :
    ([(0#16, 0x23001001#32), (0#16, 0x23002002#32), (0#16, 0x23000000#32), (2#16, 0x23000002#32),
      (2#16, 0x23001002#32), (2#16, 0x23003005#32), (2#16, 0x23FFFFFF#32)].map fun (top, w) =>
        let t := ran w (drawing top .mono)
        (t.res.outside, t.draw.winDrawY, t.draw.bufIdx)) =
      [(some false, some 1, some 2), (some true, none, none), (some true, none, none), (some true, none, none),
        (some false, some 2, some 0), (some false, some 3, some 2), (some true, none, none)] := by decide +kernel

/-- V46 and V47. -/
theorem test_load_raw_bitmap :
    (ran 0x24000300#32 (poke 0x300 [4, 0, 0, 0, 0, 8, 0, 1, 0, 0xFF] (drawing 0 .mono))).draw.scratch =
        [(0, 0x0F), (1, 0xF0), (2, 0), (3, 0)] ∧
      (ran 0x24000300#32 (poke 0x300 [0, 0, 0, 0, 0, 12, 0, 1, 0, 0xFF, 0xFF] (drawing 0 .mono))).draw.scratch =
        [(0, 0xFF), (1, 0xF0), (2, 0), (3, 0)] := by decide +kernel

/-- V49: the screen's right edge, the chunk's last line and the pass's plane clip. -/
theorem test_or_pixel_clips :
    (ran 0x24000300#32 (poke 0x300 [15, 0, 1, 0, 0, 8, 0, 2, 0, 0xFF, 0xFF] (drawing 0 .mono))).draw.scratch =
        [(0, 0), (1, 0), (2, 0), (3, 1)] ∧
      (ran 0x24000300#32 (poke 0x300 [0, 0, 0, 0, 1, 8, 0, 1, 0, 0xFF] (drawing 0 .mono))).draw.scratch =
        [(0, 0), (1, 0), (2, 0), (3, 0)] := by decide +kernel

/-- V50 and V53. -/
theorem test_print_begin :
    let t := ran 0x25000300#32 (poke 0x300 [5, 0, 2, 0, 1, 1, 0] (drawing 2 .mono))
    t.draw.printing = true ∧ t.draw.curX = some 5 ∧ t.draw.curY = some 2 ∧ t.draw.direction = some .vertical ∧
      (ran 0x25000300#32 (poke 0x300 [0, 0, 2, 0, 2, 1, 0] (drawing 2 .mono))).refuseMark =
        some (.reservedOperand 0x25000300) := by decide +kernel

/-- V50: horizontal in chunk 1, outside in chunk 0. -/
theorem test_write_char :
    let t := ran 0x26000041#32 (texting 2 0 2 .horizontal)
    let u := ran 0x26000041#32 (texting 0 0 2 .horizontal)
    t.draw.scratch = [(0, 0x80), (1, 0), (2, 0), (3, 0)] ∧ t.draw.curX = some 10 ∧
      u.draw.scratch = [(0, 0), (1, 0), (2, 0), (3, 0)] ∧ u.draw.curX = some 10 := by decide +kernel

/-- V50, vertical, and V53. -/
theorem test_write_char_vertical :
    let t := ran 0x26000041#32 (texting 0 0 0 .vertical)
    t.draw.scratch = [(0, 0), (1, 1), (2, 0), (3, 0)] ∧ t.draw.curY = some 10 ∧
      (ran 0x26000041#32 (drawing 0 .mono)).refuseMark = some .notPrinting := by decide +kernel

/-- R102. -/
theorem test_print_end : (ran 0x27000000#32 (texting 0 0 0 .vertical)).draw.printing = false := by decide +kernel

/-- V51. -/
theorem test_print_barcode :
    (ran 0x28000400#32 (poke 0x400 [0, 0, 0, 0, 1, 0x31] (drawing 0 .mono))).draw.scratch =
        [(0, 0xB0), (1, 0), (2, 0xB0), (3, 0)] ∧
      (ran 0x28000400#32 (poke 0x400 [0, 0, 0, 0, 1, 0x31] (drawing 0 .accent))).draw.scratch =
        [(0, 0), (1, 0), (2, 0), (3, 0)] := by decide +kernel

/-! ### Points between lines (R6) -/

/-- A frame waits whose interrupt raises `F_RING_RANGE`, at the point after `n` points at which nothing steps. -/
def faultAfter (n : Nat) (s : State) : State :=
  let full := arrived 0 [1, 0xA3, 0x80, 0x80] 0
  { s with radio := full.radio, arb := full.arb, ring := full.ring, irq := full.irq,
           env := { s.env with sched := List.replicate n [] ++ [[.isr]] } }

/-- R80: between `spiHold <- …` and `spiBusy <- 1` a fault leaves the one written and the other not. -/
theorem test_fault_between_hold_and_busy :
    ∃ t, exec (.epdSendByte 0xA5) (faultAfter 5 powered) = .next t ∧ t.faultMark = some (.ringRange (-1)) ∧
      t.epd = { powered.epd with spiHold := some (.m, .data, 0xA5) } := ⟨_, rfl, by decide +kernel, by decide +kernel⟩

/-- R92: after its first line a fault leaves the cursor reset and the window UNSET. -/
theorem test_fault_inside_draw_reset :
    let s := faultAfter 5 { rst with env := { calm with flash := image 0x1000 } }
    ∃ t, exec (.clientDrawImage 0x1000) s = .next t ∧ t.faultMark = some (.ringRange (-1)) ∧
      t.draw = { s.draw with curX := some 0, curY := some 0 } := ⟨_, rfl, by decide +kernel, by decide +kernel⟩

/-- R67 line 6: at the point between its assignment and its call (log entry 29) a fault leaves the pointer moved and no
entry of the table written. -/
theorem test_fault_between_assignment_and_call :
    ∃ t, exec (.radioSetChannel 103) (faultAfter 4 ready) = .next t ∧ t.faultMark = some (.ringRange (-1)) ∧
      t.radio.cfgPtr = .low ∧ t.trace = [.isrEntry true] := ⟨_, rfl, by decide +kernel, by decide +kernel, by decide +kernel⟩

/-! ### The host's position (R9) -/

/-- Where the host stands when a piece of a command has ended or stopped. -/
def stands {α : Type} (m : M α) (s : State) : Option (Byte × Nat) :=
  match m.run s with
  | .ok _ t => t.hostPos.position
  | .error _ t => t.hostPos.position

/-- R101 lines 7 and 12, R103 line 9 and R99 line 11: the line that calls `OrPixel`, whose read of an UNSET cell faults. -/
theorem test_position_inks :
    let s := { texting 0 0 0 .horizontal with draw := { (texting 0 0 0 .horizontal).draw with scratch := [] } }
    stands (clientWriteChar 0x41) s = some (0x26, 7) ∧
      stands (clientWriteChar 0x41) { s with draw := { s.draw with direction := some .vertical } } = some (0x26, 12) ∧
      stands (clientPrintBarcode 0x400) (poke 0x400 [0, 0, 0, 0, 1, 0x31] s) = some (0x28, 9) ∧
      stands (clientLoadRawBitmap 0x300) (poke 0x300 [0, 0, 0, 0, 0, 8, 0, 1, 0, 0xFF] s) = some (0x24, 11) := by
  decide +kernel

/-- R85 and R86: an idempotent command returns from its line 1, another from its last. -/
theorem test_position_of_the_return :
    stands epdPowerUpIfNeeded powered = some (0x11, 1) ∧ stands epdPowerUpIfNeeded rst = some (0x11, 16) ∧
      stands epdShutdown rst = some (0x12, 1) ∧ stands epdShutdown powered = some (0x12, 10) := by decide +kernel

/-! ### Two findings about the spec (NOTES.md) -/

/-- Log entry 18: a ring with no free slot whose RX is armed can take one frame too many, and R13's guard stops the
run. R106: the handler's lines before the count keep their writes (log entry 27). -/
theorem test_ring_range_is_reached :
    let t := moved .isr (arrived 0 [1, 0xA3, 0x80, 0x80] 0)
    t.faultMark = some (.ringRange (-1)) ∧ t.irq.rxDonePending = false ∧ t.radio.irqRaisedRx = true ∧
      t.trace = [.isrEntry true] ∧ t.ring.writeIdx = some 1 ∧ t.ring.freeCount = some 0 := by decide +kernel

/-- Log entry 26: a kept completion that is serviced before STX leaves RX armed in the idle state after the transmit, so
the next frame cannot arrive. -/
theorem test_rx_stays_armed_after_transmit :
    let t := ran 0x04000100#32 (poke 0x100 [1, 0x77]
      { arrived 0 [1, 0xB0, 0x80, 0x80] 3 with
        env := { calm with adc := [1, 2, 3, 4], keep := [true], sched := List.replicate 9 [] ++ [[.isr]] } })
    t.arb.rxArmed = true ∧ t.arb.radioState = .idle ∧ t.arb.rxEnabled = true := by decide +kernel

/-! ### Witnesses: states and operands that meet the hypotheses of each statement -/

/-- `s` in a ring slot where the frame `bs` waits to be received, with one slot used. -/
def receivable (bs : List Byte) : State := pending 0 bs 0 1 2 ready

/-- The readings of the environment that the statements name, over `s`. -/
def fed (adc : List U16) (keep busy : List Bool) (s : State) : State :=
  { s with env := { calm with adc := adc, keep := keep, busy := busy } }

theorem witness_DecodeOfEncode : (Instr.epdSendTable 3).wellFormed = true := by decide

theorem witness_EncodeOfDecode : decode 0x22FFFFFF#32 = .ok (.clientSetWindowX 4095 4095) := by decide

theorem witness_StepRunsDecodedCommand :
    ∃ (s : State) (w : Word) (q : List HostAct) (i : Instr),
      s.Unmarked ∧ s.started = true ∧ s.hostPos = .idle ∧ s.env.sched.head?.getD [] = [] ∧
        s.hostQueue = .command w :: q ∧ decode w = .ok i :=
  ⟨rst.withFetchWord 32 0x07000000, 0x07000000#32, [], .radioFlush, ⟨rfl, rfl⟩, rfl, rfl, rfl, rfl, by decide⟩

theorem witness_RefusedWordOnlyMarks :
    ∀ w ∈ [0x00000000, 0x01000001, 0x10000004],
      ∃ (s : State) (q : List HostAct) (e : DecodeError),
        s.Unmarked ∧ s.started = true ∧ s.hostPos = .idle ∧ s.env.sched.head?.getD [] = [] ∧
          s.hostQueue = .command (BitVec.ofNat 32 w) :: q ∧ decode (BitVec.ofNat 32 w) = .error e := by
  simp only [List.forall_mem_cons, List.not_mem_nil, false_implies, implies_true, and_true]
  exact ⟨⟨rst.withFetchWord 32 0x00000000, [], _, ⟨rfl, rfl⟩, rfl, rfl, rfl, rfl, rfl⟩,
    ⟨rst.withFetchWord 32 0x01000001, [], _, ⟨rfl, rfl⟩, rfl, rfl, rfl, rfl, rfl⟩,
    ⟨rst.withFetchWord 32 0x10000004, [], _, ⟨rfl, rfl⟩, rfl, rfl, rfl, rfl, rfl⟩⟩

theorem witness_MarkedBlockStops :
    (rst.withFault .spiDisconnected).faultMark = some .spiDisconnected ∧
      (rst.withRefusal .testMode).faultMark = none ∧ (rst.withRefusal .testMode).refuseMark = some .testMode :=
  ⟨rfl, rfl, rfl⟩

theorem witness_IdleStepTakesScheduledAgent :
    ∃ s t : State, s.Unmarked ∧ s.started = true ∧ s.hostPos = .idle ∧ s.env.sched = [.isr] :: [] ∧
      (takeMove .isr).run { s with env := { s.env with sched := [] :: [] } } = .ok () t :=
  ⟨{ rst with env := { calm with sched := [[.isr]] } }, _, ⟨rfl, rfl⟩, rfl, rfl, rfl, rfl⟩

/-- The shifter faults, and the interrupt handler does. -/
theorem witness_IdleStepTakesScheduledAgent_faults :
    (∃ s t : State, s.Unmarked ∧ s.started = true ∧ s.hostPos = .idle ∧ s.env.sched = [.spiStep] :: [] ∧
      (takeMove .spiStep).run { s with env := { s.env with sched := [] :: [] } } = .error (.fault .spiDisconnected) t) ∧
    ∃ s t : State, s.Unmarked ∧ s.started = true ∧ s.hostPos = .idle ∧ s.env.sched = [.isr] :: [] ∧
      (takeMove .isr).run { s with env := { s.env with sched := [] :: [] } } = .error (.fault (.ringRange (-1))) t :=
  ⟨⟨{ rst with env := { calm with sched := [[.spiStep]] }, epd := { rst.epd with spiBusy := true } }, _, ⟨rfl, rfl⟩, rfl,
      rfl, rfl, rfl⟩,
    ⟨{ arrived 0 [1, 0xA3, 0x80, 0x80] 0 with env := { calm with sched := [[.isr]] } }, _, ⟨rfl, rfl⟩, rfl, rfl, rfl,
      rfl⟩⟩

theorem tc_is_in_range : InR1Ranges tc :=
  ⟨⟨by decide, by decide⟩, rfl, nofun, ⟨by decide, by decide⟩, .inl rfl, ⟨by decide, by decide⟩,
    ⟨by decide, by decide⟩, .inl rfl, by decide +kernel, by decide⟩

theorem tc_meets_R2 : MeetsR2 tc := by
  refine ⟨⟨by decide, by decide⟩, ⟨by decide, by decide⟩, ?_, ?_, ⟨by decide, by decide, by decide⟩, by decide⟩
  · simp only [List.forall_mem_cons, List.not_mem_nil, false_implies, implies_true, and_true]
    exact ⟨⟨2, rfl⟩, ⟨2, rfl⟩, ⟨1, rfl⟩⟩
  · simp only [List.forall_mem_cons, List.not_mem_nil, false_implies, implies_true, and_true]
    exact ⟨⟨[(2, 1, [7])], [], by decide, rfl⟩, ⟨[(1, 0x50, [])], [], by decide, rfl⟩, ⟨[(1, 2, [])], [], by decide, rfl⟩,
      ⟨[(1, 0x12, [])], [], by decide, rfl⟩⟩

/-- A record that passes, one outside R1's ranges and one that fails R2. -/
theorem witness_StartChecksParameters :
    (∃ s : State, s.Unmarked ∧ s.started = false ∧ InR1Ranges s.cfg ∧ MeetsR2 s.cfg) ∧
      (∃ s : State, s.Unmarked ∧ s.started = false ∧ ¬InR1Ranges s.cfg) ∧
      ∃ s : State, s.Unmarked ∧ s.started = false ∧ ¬MeetsR2 s.cfg :=
  ⟨⟨{ rst with started := false }, ⟨rfl, rfl⟩, rfl, tc_is_in_range, tc_meets_R2⟩,
    ⟨{ rst with started := false, cfg := { tc with maxPayload := 253 } }, ⟨rfl, rfl⟩, rfl,
      fun h => absurd h.1.2 (by decide)⟩,
    ⟨{ rst with started := false, cfg := { tc with screenH := 5 } }, ⟨rfl, rfl⟩, rfl,
      fun h => absurd h.2.2.2.2.1.2.1 (by decide)⟩⟩

theorem witness_TablesAreReadToTheirEnd :
    (∀ e ∈ [((0x0D#8, 0x21#8) : Byte × Byte)], e.1 ≠ 0xFF#8) ∧
      (∀ e ∈ [((0x01#8, []) : Byte × List Byte), (0x02#8, List.replicate 254 0#8)], e.2.length < 255) ∧
      ∀ e ∈ [((0x01#8, [7#8]) : Byte × List Byte), (0x02#8, List.replicate 255 0#8)],
        1 ≤ e.2.length ∧ e.2.length ≤ 255 := by
  simp only [List.forall_mem_cons, List.not_mem_nil, false_implies, implies_true, and_true, List.length_replicate,
    List.length_cons, List.length_nil]
  decide

/-- An empty frame, the longest one the slot takes whole, and one it takes cut. -/
theorem witness_FrameArrivalFillsTheWriteSlot :
    (listening.ring.writeIdx = some 0 ∧ listening.arb.rxArmed = true ∧ listening.arb.radioState = .rx ∧
      listening.irq.rxDonePending = false ∧
      (0#8 :: [0x55#8, 0x80#8]).length = min ((0#8).toNat + 3) (listening.cfg.maxPayload + 3) ∧
      (20#8 :: List.replicate 22 0x80#8).length = min ((20#8).toNat + 3) (listening.cfg.maxPayload + 3) ∧
      (255#8 :: List.replicate 22 0x80#8).length = min ((255#8).toNat + 3) (listening.cfg.maxPayload + 3)) ∧
    (ready.ring.writeIdx = some 0 ∧
      ¬(ready.arb.rxArmed = true ∧ ready.arb.radioState = .rx ∧ ready.irq.rxDonePending = false)) := by
  decide +kernel

theorem witness_ShifterSendsTheHeldByte :
    powered.epd.spiBusy = false ∧
      (∃ s : State, s.epd.spiBusy = true ∧ s.epd.spiConnected = false) ∧
      ∃ s : State, s.epd.spiBusy = true ∧ s.epd.spiConnected = true ∧ s.epd.spiHold = some (.m, .data, 0xA5#8) :=
  ⟨rfl, ⟨{ rst with epd := { rst.epd with spiBusy := true } }, rfl, rfl⟩,
    ⟨{ powered with epd := { powered.epd with spiBusy := true, spiHold := some (.m, .data, 0xA5#8) } }, rfl, rfl,
      rfl⟩⟩

/-- What the interrupt handler's statement asks of a state with frame `bs` complete in slot 0, `n` slots free. -/
def handled (bs : List Byte) (n : Nat) (len : Byte) : Prop :=
  let s := arrived 0 bs n
  s.irq.ie = true ∧ s.irq.rxDonePending = true ∧ s.ring.writeIdx = some 0 ∧ s.ring.freeCount = some n ∧
    s.ring.cells.read (ringAddr 0 0) = some len

/-- The shortest and the longest valid frame at the fewest and the most free slots, a valid frame at no free slot, and
the three ways a frame is rejected. -/
theorem witness_InterruptAcceptsOrRejects :
    (handled [1, 0xA1, 0x80, 0x80] 1 1 ∧
      (arrived 0 [1, 0xA1, 0x80, 0x80] 1).ring.cells.read (ringAddr 0 3) = some 0x80#8) ∧
    (handled (20 :: List.replicate 22 0x80) 3 20 ∧
      (arrived 0 (20 :: List.replicate 22 0x80) 3).ring.cells.read (ringAddr 0 22) = some 0x80#8) ∧
    (handled [1, 0xA1, 0x80, 0x80] 0 1 ∧
      (arrived 0 [1, 0xA1, 0x80, 0x80] 0).ring.cells.read (ringAddr 0 3) = some 0x80#8 ∧
      (0x80#8 : Byte).getLsbD 7 = true) ∧
    handled [0, 0x55, 0x80] 3 0 ∧ (handled (21 :: List.replicate 22 0x80) 3 21 ∧ tc.maxPayload < (21#8).toNat) ∧
    (handled [2, 0x11, 0x22, 0x80, 0x1E] 3 2 ∧
      (arrived 0 [2, 0x11, 0x22, 0x80, 0x1E] 3).ring.cells.read (ringAddr 0 4) = some 0x1E#8) ∧
    ¬(listening.irq.ie = true ∧ listening.irq.rxDonePending = true) := by
  unfold handled
  decide +kernel

/-- The gate closed at each of its checks. -/
theorem witness_ClosedGateEndsTheCommand :
    (Instr.radioTransmit 0x100).gated = true ∧ rst.Quiet ∧ rst.radio.initialized = false ∧
      (∃ s : State, s.Quiet ∧ s.radio.probed = true ∧ s.radio.present = false) ∧
      ∃ s : State, s.Quiet ∧ s.radio.present = true ∧ s.radio.initialized = true ∧ s.radio.enabled = false :=
  ⟨rfl, rfl, rfl, ⟨{ ready with radio := { ready.radio with present := false } }, rfl, rfl, rfl⟩,
    ⟨{ ready with radio := { ready.radio with enabled := false } }, rfl, rfl, rfl, rfl⟩⟩

theorem witness_TestModeRefusesSixCommands :
    ((Instr.radioFlush).refusedInTest = true ∧ (inTest ready).Quiet ∧ radioGate (inTest ready).radio = .ok ∧
      (inTest ready).radio.freqTest = true) ∧
    ∃ t, (Instr.radioSetTxPower 0).ofRadio = true ∧ (Instr.radioSetTxPower 0).refusedInTest = false ∧
      (inTest ready).refuseMark ≠ some .testMode ∧ exec (.radioSetTxPower 0) (inTest ready) = .next t :=
  ⟨⟨rfl, rfl, rfl, rfl⟩, ⟨_, rfl, rfl, nofun, rfl⟩⟩

theorem witness_RadioInitProgramsOrFails :
    (∃ s : State, s.Quiet ∧ s.env.idBytes = [0x00#8] ∧ 0x00#8 ≠ s.cfg.chipIdExpected) ∧
    ∃ s : State, s.Quiet ∧ s.env.idBytes = [0x14#8] ∧ 0x14#8 = s.cfg.chipIdExpected ∧ paramsOk s.cfg = true ∧
      15 = ((max (-30) (min s.cfg.initTxDbm.toInt 10) + 30) / 2).toNat ∧ s.cfg.paCode[15]? = some 0x1F#8 :=
  ⟨⟨{ rst with env := { calm with idBytes := [0x00] } }, rfl, rfl, by decide⟩,
    ⟨{ rst with env := { calm with idBytes := [0x14] } }, rfl, rfl, rfl, test_tc_is_a_configuration,
      by decide +kernel, by decide +kernel⟩⟩

/-- The gate's state, out of test mode. -/
theorem ready_is_open : ready.Quiet ∧ radioGate ready.radio = .ok ∧ ready.radio.freqTest = false ∧
    paramsOk ready.cfg = true := ⟨rfl, rfl, rfl, test_tc_is_a_configuration⟩

/-- Both ends of both bands, and one id outside. -/
theorem witness_SetChannelSelectsBandAndRegister :
    ([100#8, 105#8, 200#8, 210#8, 99#8].map fun ch =>
      (if tc.lowFirst.toNat ≤ ch.toNat ∧ ch.toNat ≤ tc.lowLast.toNat then
        (Band.low, (ch.toNat - tc.lowFirst.toNat) * 3)
      else if tc.highFirst.toNat ≤ ch.toNat ∧ ch.toNat ≤ tc.highLast.toNat then
        (Band.high, (ch.toNat - tc.highFirst.toNat) * 12)
      else (Band.high, 0))) = [(.low, 0), (.low, 15), (.high, 0), (.high, 120), (.high, 0)] ∧
    ready.radio.cfgPtr ≠ .low ∧ ready.radio.cfgPtr = .high := by decide +kernel

theorem witness_SetTxPowerWritesTheClampedCode :
    (0 : Int) = (max (-30) (min (0x80#8).toInt 10) + 30) / 2 ∧
      (20 : Int) = (max (-30) (min (0x7F#8).toInt 10) + 30) / 2 ∧
      (0 : Int) = (max (-30) (min (0xE3#8).toInt 10) + 30) / 2 := by decide

theorem witness_FreqTestEntersAndLeaves :
    ready.radio.freqTest = false ∧
      ((inTest ready).Quiet ∧ radioGate (inTest ready).radio = .ok ∧ (inTest ready).radio.freqTest = true ∧
        (inTest ready).radio.curBand = some .low ∧ (inTest ready).ring.freeCount = some 3 ∧
        (inTest ready).ring.writeIdx = some 0) := ⟨rfl, rfl, rfl, rfl, rfl, rfl, rfl⟩

theorem witness_TransmitSendsTheFrame :
    ∃ s : State, s.Quiet ∧ radioGate s.radio = .ok ∧ s.radio.freqTest = false ∧
      s.HostHolds (0x100#16).toNat [1, 0x55] ∧ s.ring.freeCount = some 3 ∧ s.ring.writeIdx = some 0 ∧
      s.env.adc = [3000, 2950] ∧ s.env.keep = [true] ∧ s.cfg.assumeXcvrLive = true ∧
      ∀ m, s.cfg.txTimeout = some m → 2 ≤ m :=
  ⟨poke 0x100 [1, 0x55] (fed [3000, 2950] [true] [] listening), rfl, rfl, rfl,
    by unfold State.HostHolds; decide +kernel, rfl, rfl, rfl, rfl, rfl, nofun⟩

/-- The longest payload too. -/
theorem witness_TransmitSendsTheFrame_longest :
    (poke 0x100 (20 :: List.replicate 20 0x55) (fed [3000, 2950] [true] [] listening)).HostHolds (0x100#16).toNat
      (20 :: List.replicate 20 0x55) := by unfold State.HostHolds; decide +kernel

/-- The two bad lengths at their bounds, the first address past HOST, an unwritten one, and the timeout. -/
theorem witness_TransmitEndsWithoutSending :
    (poke 0x100 [0] ready).HostHolds (0x100#16).toNat [0] ∧
      ((poke 0x100 [21] ready).HostHolds (0x100#16).toNat [21] ∧ ready.cfg.maxPayload < (21#8).toNat) ∧
      ready.cfg.hostMemSize ≤ (0x1000#16).toNat ∧
      ((0x0FFF#16).toNat < ready.cfg.hostMemSize ∧ ready.hostMem.read (0x0FFF#16).toNat = none) ∧
      (let s := { poke 0x100 [1, 0x55] (fed [3000] [true] [] listening) with cfg := { tc with txTimeout := some 1 } }
      s.HostHolds (0x100#16).toNat [1, 0x55] ∧ s.ring.freeCount = some 3 ∧ s.ring.writeIdx = some 0 ∧
        s.env.adc = [3000] ∧ s.env.keep = [true] ∧ s.cfg.txTimeout = some 1) := by
  unfold State.HostHolds
  decide +kernel

/-- A frame whose last byte lies past HOST, one whose first payload byte is not written, and a transceiver that is not
live. -/
theorem witness_TransmitEndsWithoutSending_after_stop :
    (let s := poke 0xFFE [3, 0xAA] (fed [] [true] [] listening)
    s.HostHolds (0xFFE#16).toNat [3, 0xAA] ∧ (3#8).toNat ≤ s.cfg.maxPayload ∧ [0xAA#8].length < (3#8).toNat ∧
      s.cfg.hostMemSize ≤ (0xFFE#16).toNat + 1 + [0xAA#8].length) ∧
    (let s := poke 0x100 [20] (fed [] [true] [] listening)
    s.HostHolds (0x100#16).toNat [20] ∧ (20#8).toNat ≤ s.cfg.maxPayload ∧ ([] : List Byte).length < (20#8).toNat ∧
      (0x100#16).toNat + 1 + ([] : List Byte).length < s.cfg.hostMemSize ∧
      s.hostMem.read ((0x100#16).toNat + 1 + ([] : List Byte).length) = none) ∧
    (let s := { poke 0x100 [1, 0x55] (fed [3000, 2950] [true] [] listening) with
                cfg := { tc with assumeXcvrLive := false } }
    s.HostHolds (0x100#16).toNat [1, 0x55] ∧ s.ring.freeCount = some 3 ∧ s.ring.writeIdx = some 0 ∧
      s.env.adc = [3000, 2950] ∧ s.env.keep = [true] ∧ s.cfg.txTimeout = none ∧ s.cfg.assumeXcvrLive = false) := by
  unfold State.HostHolds
  decide +kernel

/-- The host stands in the polling loop, TX done or not, with a timeout of 3 polls. -/
def polling (done : Bool) : State :=
  { fed [2900] [] [] listening with
    cfg := { tc with txTimeout := some 3 }, hostPos := .txPoll 2,
    arb := { listening.arb with rxArmed := false, radioState := .tx, txDone := done, txMinBatt := some 3000 } }

theorem witness_TransmitEndsWithoutSending_going_on :
    ∀ done : Bool, (polling done).HeldQuiet ∧ (polling done).hostPos = .txPoll 2 ∧
      (polling done).ring.freeCount = some 3 ∧ (polling done).ring.writeIdx = some 0 ∧
      (polling done).arb.txMinBatt = some 3000 ∧ (polling done).env.adc = [2900] ∧
      (polling done).arb.txDone = done ∧ (polling done).cfg.txTimeout = some 3 ∧ 3 ≤ 2 + 1 :=
  fun _ => ⟨⟨⟨rfl, rfl⟩, rfl, rfl, rfl, rfl⟩, rfl, rfl, rfl, rfl, rfl, rfl, rfl, Nat.le_refl 3⟩

/-- A held poll that neither finds TX done nor times out. -/
theorem witness_TransmitEndsWithoutSending_held :
    ∃ s : State, s.HeldQuiet ∧ s.hostPos = .txPoll 2 ∧ s.ring.freeCount = some 3 ∧ s.ring.writeIdx = some 0 ∧
      s.arb.radioState = .tx ∧ s.arb.txDone = false ∧ s.arb.txMinBatt = some 3000 ∧ s.env.adc = [2900, 2800] ∧
      s.cfg.txTimeout = none ∧ s.cfg.assumeXcvrLive = false :=
  ⟨{ polling false with cfg := { tc with assumeXcvrLive := false }, env := { calm with adc := [2900, 2800] } },
    ⟨⟨rfl, rfl⟩, rfl, rfl, rfl, rfl⟩, rfl, rfl, rfl, rfl, rfl, rfl, rfl, rfl, rfl⟩

theorem witness_EnableRxTurnsReceptionOnAndOff :
    ready.arb.rxEnabled = false ∧ ready.ring.freeCount = some 3 ∧ ready.ring.writeIdx = some 0 ∧
      listening.Quiet ∧ radioGate listening.radio = .ok ∧ listening.radio.freqTest = false ∧
      listening.arb.rxEnabled = true := ⟨rfl, rfl, rfl, rfl, rfl, rfl, rfl⟩

/-- A frame with no payload and the longest one, from a ring with one frame. -/
theorem witness_ReceiveCopiesAndFreesTheSlot :
    ∀ payload ∈ [[], List.replicate 20 0x33#8],
      ∃ (s : State) (len : Byte), s.Quiet ∧ radioGate s.radio = .ok ∧ s.radio.freqTest = false ∧
        s.ring.freeCount = some 2 ∧ s.ring.readIdx = some 0 ∧ s.ring.writeIdx = some 1 ∧ ¬s.ArmedInto 0 ∧
        s.SlotHolds 0 (len :: payload ++ [0xC4#8, 0x9E#8]) ∧ payload.length = len.toNat ∧
        len.toNat ≤ s.cfg.maxPayload ∧ (0x200#16).toNat + len.toNat < s.cfg.hostMemSize := by
  simp only [List.forall_mem_cons, List.not_mem_nil, false_implies, implies_true, and_true]
  exact ⟨⟨receivable [0, 0xC4, 0x9E], 0, rfl, rfl, rfl, rfl, rfl, rfl, nofun,
      by unfold State.SlotHolds; decide +kernel, rfl, by decide, by decide⟩,
    ⟨receivable (20 :: List.replicate 20 0x33 ++ [0xC4, 0x9E]), 20, rfl, rfl, rfl, rfl, rfl, rfl, nofun,
      by unfold State.SlotHolds; decide +kernel, rfl, by decide, by decide⟩⟩

/-- A full ring, whose reception starts again. -/
theorem witness_ReceiveCopiesAndFreesTheSlot_full :
    ∃ s : State, s.Quiet ∧ radioGate s.radio = .ok ∧ s.radio.freqTest = false ∧ s.ring.freeCount = some 0 ∧
      s.ring.readIdx = some 0 ∧ s.ring.writeIdx = some 0 ∧ ¬s.ArmedInto 0 ∧
      s.SlotHolds 0 [1#8, 0xA1#8, 0x80#8, 0x80#8] ∧ State.rxStarts 1 s = true :=
  ⟨pending 0 [1, 0xA1, 0x80, 0x80] 0 0 0 { ready with arb := { ready.arb with rxEnabled := true } }, rfl, rfl, rfl,
    rfl, rfl, rfl, nofun, by unfold State.SlotHolds; decide +kernel, rfl⟩

/-- The slot the RX DMA is armed into: the shortest frame and the longest. -/
theorem witness_ReceiveCopiesAndFreesTheSlot_race :
    ∀ copied ∈ [[1#8], List.replicate 21 0x33#8],
      ∃ (s : State) (len : Byte), s.Quiet ∧ radioGate s.radio = .ok ∧ s.radio.freqTest = false ∧
        s.ring.freeCount = some 2 ∧ s.ring.readIdx = some 1 ∧ s.ring.writeIdx = some 1 ∧ s.ArmedInto 1 ∧
        s.env.race = len :: 0x9E#8 :: 0xC4#8 :: copied ++ [7] ∧ copied.length = len.toNat + 1 ∧
        len.toNat ≤ s.cfg.maxPayload ∧ (0x200#16).toNat + len.toNat < s.cfg.hostMemSize := by
  simp only [List.forall_mem_cons, List.not_mem_nil, false_implies, implies_true, and_true]
  exact ⟨⟨pending 0 [] 1 1 2 { listening with env := { calm with race := [0, 0x9E, 0xC4, 1, 7] } }, 0, rfl, rfl, rfl,
      rfl, rfl, rfl, ⟨rfl, rfl⟩, rfl, rfl, by decide, by decide⟩,
    ⟨pending 0 [] 1 1 2
      { listening with env := { calm with race := 20 :: 0x9E :: 0xC4 :: List.replicate 21 0x33 ++ [7] } }, 20, rfl, rfl,
      rfl, rfl, rfl, rfl, ⟨rfl, rfl⟩, rfl, rfl, by decide, by decide⟩⟩

/-- A copy whose last byte lies past HOST, and one that begins past it. -/
theorem witness_ReceiveWithoutAFrame_past_host :
    ∃ s : State, s.Quiet ∧ radioGate s.radio = .ok ∧ s.radio.freqTest = false ∧ s.ring.freeCount = some 2 ∧
      s.ring.readIdx = some 0 ∧ ¬s.ArmedInto 0 ∧ s.SlotHolds 0 ([1, 0x33] ++ [0xC4#8, 0x9E#8]) ∧
      [0x33#8].length = (1#8).toNat ∧ (1#8).toNat ≤ s.cfg.maxPayload ∧
      s.cfg.hostMemSize ≤ (0xFFF#16).toNat + (1#8).toNat ∧ s.cfg.hostMemSize ≤ (0x1000#16).toNat + (1#8).toNat :=
  ⟨receivable [1, 0x33, 0xC4, 0x9E], rfl, rfl, rfl, rfl, rfl, nofun, by unfold State.SlotHolds; decide +kernel, rfl,
    by decide, by decide, by decide⟩

theorem witness_ReceiveWithoutAFrame :
    ready.ring.freeCount = some 3 ∧
      (∃ s : State, s.Quiet ∧ radioGate s.radio = .ok ∧ s.ring.freeCount = some 2 ∧ s.ring.readIdx = some 0 ∧
        ¬s.ArmedInto 0 ∧ s.ring.cells.read (ringAddr 0 0) = some 21#8 ∧ s.cfg.maxPayload < (21#8).toNat) ∧
      ∃ s : State, s.Quiet ∧ radioGate s.radio = .ok ∧ s.ring.freeCount = some 2 ∧ s.ring.readIdx = some 0 ∧
        ¬s.ArmedInto 0 ∧ s.ring.cells.read (ringAddr 0 0) = none :=
  ⟨rfl, ⟨receivable [21], rfl, rfl, rfl, rfl, nofun, rfl, by decide⟩, ⟨receivable [], rfl, rfl, rfl, rfl, nofun, rfl⟩⟩

theorem witness_FlushFreesEverySlot :
    ∃ s : State, s.Quiet ∧ radioGate s.radio = .ok ∧ s.radio.freqTest = false ∧ s.ring.freeCount = some 0 ∧
      s.ring.writeIdx = some 0 := ⟨pending 0 [] 0 0 0 ready, rfl, rfl, rfl, rfl, rfl⟩

theorem witness_AckAnswersTheDrawnNumber :
    ∃ s : State, s.Quiet ∧ radioGate s.radio = .ok ∧ s.radio.freqTest = false ∧
      s.env.acks = [none, some 0xFF#8] :=
  ⟨{ ready with env := { calm with acks := [none, some 0xFF] } }, rfl, rfl, rfl, rfl⟩

theorem witness_PlatformSetsTheEnabledFlag : rst.Quiet := rfl

/-- The last table id too. -/
theorem witness_SendTableReplaysTheNamedTable :
    powered.Quiet ∧ powered.epd.epdPowered = true ∧ powered.epd.spiConnected = true ∧ powered.ShifterReady ∧
      paramsOk powered.cfg = true ∧ (3#8 = 3#8 ∧ [1, 0x12, 0] = powered.cfg.tableRefresh) :=
  ⟨rfl, rfl, rfl, nofun, test_tc_is_a_configuration, rfl, rfl⟩

theorem witness_EntrySelectsSendsDeselects :
    powered.Quiet ∧ powered.epd.spiConnected = true ∧ powered.epd.spiBusy = false := ⟨rfl, rfl, rfl⟩

theorem witness_UnpoweredTransfersAreRefused : rst.Quiet ∧ rst.epd.epdPowered = false ∧ (3#8).toNat ≤ 3 :=
  ⟨rfl, rfl, by decide⟩

/-- TC with a panel that is not live. -/
def tcDead : Params := { tc with assumePanelLive := false }

theorem tcDead_is_a_configuration : paramsOk tcDead = true := by decide +kernel

/-- A panel that is live, every wait with readings before its level, none of them, and V39's missed pulse. -/
theorem witness_PowerUpProgramsThePanel :
    powered.epd.epdPowered = true ∧
      (rst.Quiet ∧ rst.epd.epdPowered = false ∧ rst.env.busy = [] ∧ rst.cfg.assumePanelLive = true ∧
        paramsOk rst.cfg = true ∧ rst.ShifterReady) ∧
      (∃ s : State, s.Quiet ∧ s.epd.epdPowered = false ∧ paramsOk s.cfg = true ∧ s.ShifterReady ∧
        s.env.busy =
          List.replicate 1 s.cfg.busyActive ++ (!s.cfg.busyActive) ::
            (List.replicate 1 (!s.cfg.busyActive) ++ s.cfg.busyActive ::
              (List.replicate 1 s.cfg.busyActive ++ (!s.cfg.busyActive) :: [false]))) ∧
      ∀ missed : Nat, ∃ s : State, s.Quiet ∧ s.epd.epdPowered = false ∧ paramsOk s.cfg = true ∧ s.ShifterReady ∧
        s.cfg.assumePanelLive = false ∧
        s.env.busy =
          List.replicate 0 s.cfg.busyActive ++ (!s.cfg.busyActive) :: List.replicate missed (!s.cfg.busyActive) :=
  ⟨rfl, ⟨rfl, rfl, rfl, rfl, test_tc_is_a_configuration, nofun⟩,
    ⟨fed [] [] [false, true, true, false, false, true, false] rst, rfl, rfl, test_tc_is_a_configuration, nofun, rfl⟩,
    fun missed => ⟨{ fed [] [] (true :: List.replicate missed true) rst with cfg := tcDead }, rfl, rfl,
      tcDead_is_a_configuration, nofun, rfl, rfl⟩⟩

/-- The host stands at a wait of power-up, under the parameters `p`. -/
def waiting (p : Params) (w : BusyWait) (c : PowerCaller) : State :=
  { powered with
    cfg := p, hostPos := .busyWait w c, epd := { powered.epd with epdPowered := false },
    draw := { rst.ctxReset.draw with flashPtr := some 0x001001 } }

/-- Each wait of a live panel and of one that is not. -/
theorem witness_going_on_at_a_busy_wait :
    ∀ (p : Params) (w : BusyWait) (c : PowerCaller), p = tc ∨ p = tcDead →
      (waiting p w c).HeldQuiet ∧ (waiting p w c).hostPos = .busyWait w c ∧ (waiting p w c).env.busy = [] ∧
        paramsOk (waiting p w c).cfg = true ∧ (waiting p w c).epd.spiConnected = true ∧
        (waiting p w c).draw.passPlane = some .mono ∧ (waiting p w c).draw.flashPtr = some 0x001001 ∧
        tc.assumePanelLive = true ∧ tcDead.assumePanelLive = false := by
  rintro p w c (rfl | rfl)
  · exact ⟨⟨⟨rfl, rfl⟩, rfl, rfl, rfl, rfl⟩, rfl, rfl, test_tc_is_a_configuration, rfl, rfl, rfl, rfl, rfl⟩
  · exact ⟨⟨⟨rfl, rfl⟩, rfl, rfl, rfl, rfl⟩, rfl, rfl, tcDead_is_a_configuration, rfl, rfl, rfl, rfl, rfl⟩

/-- A byte still in the shifter. -/
theorem witness_ShutdownPowersThePanelDown :
    rst.epd.epdPowered = false ∧
      ∃ s : State, s.Quiet ∧ s.epd.epdPowered = true ∧ s.epd.spiConnected = true ∧ s.epd.spiBusy = true ∧
        s.ShifterReady ∧ paramsOk s.cfg = true :=
  ⟨rfl, { powered with epd := { powered.epd with spiBusy := true, spiHold := some (.m, .data, 0xA5#8) } }, rfl, rfl,
    rfl, rfl, fun _ => ⟨rfl, nofun⟩, test_tc_is_a_configuration⟩

theorem witness_StartTransferSelectsThePlane :
    (rst.Quiet ∧ rst.env.busy = [] ∧ rst.cfg.assumePanelLive = true ∧ paramsOk rst.cfg = true ∧ rst.ShifterReady ∧
      (rst.epd.epdPowered = true → rst.epd.spiConnected = true)) ∧
    powered.env.busy = [] ∧ powered.ShifterReady ∧ (powered.epd.epdPowered = true → powered.epd.spiConnected = true) :=
  ⟨⟨rfl, rfl, rfl, test_tc_is_a_configuration, nofun, nofun⟩, rfl, nofun, fun _ => rfl⟩

theorem witness_SendByteHandsOverOneByte :
    powered.Quiet ∧ powered.epd.epdPowered = true ∧ powered.epd.spiConnected = true ∧ powered.ShifterReady ∧
      powered.cfg.numCtrl = 1 := ⟨rfl, rfl, rfl, nofun, rfl⟩

/-- No busy reading, and one. -/
theorem witness_RefreshTracksTheMinimumCode :
    (∃ s : State, s.Quiet ∧ s.epd.epdPowered = true ∧ s.epd.spiConnected = true ∧ s.ShifterReady ∧
      paramsOk s.cfg = true ∧ s.env.busy = List.replicate 0 s.cfg.busyActive ++ [!s.cfg.busyActive] ∧
      s.env.adc = [2900#16] ++ []) ∧
    ∃ s : State, s.Quiet ∧ s.epd.epdPowered = true ∧ s.epd.spiConnected = true ∧ s.ShifterReady ∧
      paramsOk s.cfg = true ∧ s.env.busy = List.replicate 1 s.cfg.busyActive ++ [!s.cfg.busyActive] ∧
      s.env.adc = [2900#16, 2800#16] ++ [] ∧ 2800#16 ∈ [2900#16, 2800#16] ∧
      ∀ v ∈ [2900#16, 2800#16], (2800#16).toNat ≤ v.toNat :=
  ⟨⟨fed [2900] [] [true] powered, rfl, rfl, rfl, nofun, test_tc_is_a_configuration, rfl, rfl⟩,
    ⟨fed [2900, 2800] [] [false, true] powered, rfl, rfl, rfl, nofun, test_tc_is_a_configuration, rfl, rfl,
      by simp, by simp⟩⟩

/-- A panel that is not live, after one busy reading; and the host in the loop, for each caller. -/
theorem witness_RefreshTracksTheMinimumCode_held :
    (∃ s : State, s.Quiet ∧ s.epd.epdPowered = true ∧ s.epd.spiConnected = true ∧ s.ShifterReady ∧
      paramsOk s.cfg = true ∧ s.env.busy = List.replicate 1 s.cfg.busyActive ∧
      s.env.adc = [2900#16, 2800#16] ++ [] ∧ s.cfg.assumePanelLive = false) ∧
    ∀ (c : RefreshCaller) (live : Bool), ∃ s : State, s.HeldQuiet ∧ s.hostPos = .refreshPoll 2900 c ∧
      s.epd.epdPowered = true ∧ s.epd.spiConnected = true ∧ paramsOk s.cfg = true ∧ s.env.adc = [2800] ∧
      s.env.busy = [] ∧ s.cfg.assumePanelLive = live :=
  ⟨⟨{ fed [2900, 2800] [] [false] powered with cfg := tcDead }, rfl, rfl, rfl, nofun, tcDead_is_a_configuration, rfl,
      rfl, rfl⟩,
    fun c live => ⟨{ fed [2800] [] [] powered with
        cfg := { tc with assumePanelLive := live }, hostPos := .refreshPoll 2900 c }, ⟨⟨rfl, rfl⟩, rfl, rfl, rfl, rfl⟩, rfl,
      rfl, rfl, by cases live; exacts [tcDead_is_a_configuration, test_tc_is_a_configuration], rfl, rfl, rfl⟩⟩

theorem witness_PrimitivesRunOnlyInACallback :
    (Instr.clientPrintEnd).drawOnly = true ∧ rst.Quiet ∧ rst.draw.drawing = false := ⟨rfl, rfl, rfl⟩

theorem witness_SetWindowXMovesTheCursor :
    (drawing 0 .mono).Quiet ∧ (drawing 0 .mono).draw.drawing = true := ⟨rfl, rfl⟩

/-- A window that ends at the chunk's first line, one that begins at its last, and one that begins past it. -/
theorem witness_SetWindowYTestsTheChunk :
    (drawing 2 .mono).Quiet ∧ (drawing 2 .mono).draw.drawing = true ∧ (drawing 2 .mono).cfg.packedPlanes = false ∧
      (drawing 2 .mono).draw.chunkStartY = some 2 ∧ (drawing 2 .mono).draw.curX = some 0 ∧
      1 ≤ (drawing 2 .mono).cfg.linesPerChunk ∧
      (windowOutside tc 0 2 2 = true ∧ windowOutside tc 3 1 2 = false ∧ windowOutside tc 4 1 2 = true) :=
  ⟨rfl, rfl, rfl, rfl, rfl, by decide, by decide +kernel⟩

/-- The chunk of the drawing states holds a value in every cell. -/
theorem drawing_is_filled (top : U16) (p : Plane) : (drawing top p).ChunkFilled := by
  refine ⟨by change 4 ≤ 4; decide, fun o ho => ?_⟩
  have h : o < 4 := ho
  revert o
  change ∀ o, o < 4 → o < 4 → Memory.read [(0, 0), (1, 0), (2, 0), (3, 0)] o ≠ none
  decide +kernel

theorem witness_LoadRawBitmapInksItsBits :
    ∀ rows ∈ [[], [0xF0#8, 0x0F#8]],
      ∃ s : State, s.Quiet ∧ s.draw.drawing = true ∧ s.cfg.packedPlanes = false ∧ s.ChunkFilled ∧
        s.cfg.screenW ≤ s.cfg.bytesPerLine * 8 ∧ s.draw.chunkStartY = some 0 ∧ s.draw.passPlane = some .mono ∧
        s.HostHolds (0x300#16).toNat ([0, 0, 1, 0, 0, 8, 0, BitVec.ofNat 8 rows.length, 0] ++ rows) ∧
        rows.length = rows.length * ((8 + 7) / 8) := by
  simp only [List.forall_mem_cons, List.not_mem_nil, false_implies, implies_true, and_true]
  exact ⟨⟨poke 0x300 [0, 0, 1, 0, 0, 8, 0, 0, 0] (drawing 0 .mono), rfl, rfl, rfl, drawing_is_filled 0 .mono,
      by decide, rfl, rfl, by unfold State.HostHolds; decide +kernel, rfl⟩,
    ⟨poke 0x300 [0, 0, 1, 0, 0, 8, 0, 2, 0, 0xF0, 0x0F] (drawing 0 .mono), rfl, rfl, rfl,
      drawing_is_filled 0 .mono, by decide, rfl, rfl, by unfold State.HostHolds; decide +kernel, rfl⟩⟩

theorem witness_LoadRawBitmapInksItsBits_refused :
    ∃ s : State, s.Quiet ∧ s.draw.drawing = true ∧ s.HostHolds (0x300#16).toNat [0, 0, 0, 0, 2, 8, 0, 1, 0] ∧
      1 < (2#8).toNat :=
  ⟨poke 0x300 [0, 0, 0, 0, 2, 8, 0, 1, 0] (drawing 0 .mono), rfl, rfl, by unfold State.HostHolds; decide +kernel,
    by decide⟩

theorem witness_PrintBeginOpensATextRun :
    (∃ s : State, s.Quiet ∧ s.draw.drawing = true ∧ s.HostHolds (0x300#16).toNat [0, 0, 2, 0, 1, 1, 1]) ∧
      ∃ s : State, s.Quiet ∧ s.draw.drawing = true ∧ s.HostHolds (0x300#16).toNat [0, 0, 2, 0, 2, 1, 0] ∧
        1 < (2#8).toNat :=
  ⟨⟨poke 0x300 [0, 0, 2, 0, 1, 1, 1] (drawing 0 .mono), rfl, rfl, by unfold State.HostHolds; decide +kernel⟩,
    ⟨poke 0x300 [0, 0, 2, 0, 2, 1, 0] (drawing 0 .mono), rfl, rfl, by unfold State.HostHolds; decide +kernel,
      by decide⟩⟩

theorem witness_WriteCharInksTheGlyph :
    (drawing 0 .mono).draw.printing = false ∧
      ∀ d : Direction, ∃ s : State, s.Quiet ∧ s.draw.drawing = true ∧ s.draw.printing = true ∧
        s.cfg.packedPlanes = false ∧ s.ChunkFilled ∧ s.cfg.screenW ≤ s.cfg.bytesPerLine * 8 ∧
        s.draw.chunkStartY = some 2 ∧ s.draw.passPlane = some .mono ∧ s.draw.color = some .mono ∧
        s.draw.fontSize = some 1 ∧ s.draw.curX = some 0 ∧ s.draw.curY = some 2 ∧ s.draw.direction = some d :=
  ⟨rfl, fun d => ⟨texting 2 0 2 d, rfl, rfl, rfl, rfl, drawing_is_filled 2 .mono, Nat.le_refl 16, rfl, rfl, rfl, rfl,
    rfl, rfl, rfl⟩⟩

theorem witness_PrintEndClosesTheTextRun :
    (texting 0 0 0 .vertical).Quiet ∧ (texting 0 0 0 .vertical).draw.drawing = true := ⟨rfl, rfl⟩

theorem witness_PrintBarcodeInksItsModules :
    ∃ s : State, s.Quiet ∧ s.draw.drawing = true ∧ s.cfg.packedPlanes = false ∧ s.ChunkFilled ∧
      s.cfg.screenW ≤ s.cfg.bytesPerLine * 8 ∧ s.draw.chunkStartY = some 0 ∧ s.draw.passPlane = some .mono ∧
      s.HostHolds (0x400#16).toNat ([0, 0, 0, 0, 1] ++ [0x31]) ∧
      [true, false, true, true] = barcodeBars s.cfg [0x31] :=
  ⟨poke 0x400 [0, 0, 0, 0, 1, 0x31] (drawing 0 .mono), rfl, rfl, rfl, drawing_is_filled 0 .mono, by decide, rfl, rfl,
    by unfold State.HostHolds; decide +kernel, rfl⟩

/-- The chunk's last visible pixel, and an offset past the buffer in a parameter record that R2 refuses. -/
theorem witness_OrPixelInksOneVisiblePixel :
    (∃ s : State, s.Quiet ∧ s.draw.color = some .mono ∧ s.visible 15 1 ∧ ¬s.visible 16 1 ∧
      15 / 8 + (1 - (0#16).toNat) * s.cfg.bytesPerLine < s.cfg.scratchSize ∧ s.draw.scratch.read 3 = some 0#8) ∧
    ∃ s : State, s.visible 15 1 ∧
      s.cfg.scratchSize ≤ 15 / 8 + (1 - (0#16).toNat) * s.cfg.bytesPerLine := by
  refine ⟨⟨texting 0 0 0 .vertical, rfl, rfl, ?_, ?_, by decide, rfl⟩,
    ⟨{ texting 0 0 0 .vertical with cfg := { tc with scratchSize := 3 } }, ?_, by decide⟩⟩
  · exact ⟨rfl, by decide, _, _, _, _, _, rfl, rfl, rfl, rfl, rfl, by decide +kernel⟩
  · exact fun h => absurd h.2.1 (by decide)
  · exact ⟨rfl, by decide, _, _, _, _, _, rfl, rfl, rfl, rfl, rfl, by decide +kernel⟩

theorem witness_StreamChunkSendsRepackedBytes :
    ∃ s : State, s.Quiet ∧ s.epd.epdPowered = true ∧ s.epd.spiConnected = true ∧ s.ShifterReady ∧
      s.draw.passPlane = some .mono ∧ chunkBytes s.cfg ≤ s.cfg.scratchSize ∧
      [0#8, 0#8, 0#8, 0#8].length = chunkBytes s.cfg ∧
      ∀ i, i < [0#8, 0#8, 0#8, 0#8].length → s.draw.scratch.read i = [0#8, 0#8, 0#8, 0#8][i]? :=
  ⟨{ powered with draw := (drawing 0 .mono).draw }, rfl, rfl, rfl, nofun, rfl, by decide, rfl, by decide +kernel⟩

theorem witness_UnsupportedImageIsOnlyLogged :
    (∃ s : State, s.Quiet ∧ s.cfg.packedPlanes = true) ∧
      ∃ s : State, s.Quiet ∧ s.cfg.packedPlanes = false ∧ 0x55#8 = flashRead s.env 0x003000 ∧
        0x55#8 ≠ s.cfg.type1bpp ∧ 0x55#8 ≠ s.cfg.type2bpp :=
  ⟨⟨{ rst with cfg := { tc with packedPlanes := true } }, rfl, rfl⟩,
    ⟨{ rst with env := { calm with flash := [(0x3000, 0x55)] } }, rfl, rfl, by decide +kernel, by decide, by decide⟩⟩

/-- Both tags. -/
theorem witness_DrawImageStreamsThePlanes :
    (∃ (s : State) (tag : Byte), s.Quiet ∧ s.cfg.packedPlanes = false ∧ paramsOk s.cfg = true ∧
      s.cfg.assumePanelLive = true ∧ s.env.busy = [] ∧ s.ShifterReady ∧
      (s.epd.epdPowered = true → s.epd.spiConnected = true) ∧ tag = flashRead s.env 0x001000 ∧
      (tag = s.cfg.type1bpp ∧ tag ≠ s.cfg.type2bpp)) ∧
    ∃ (s : State) (tag : Byte), s.Quiet ∧ s.cfg.packedPlanes = false ∧ paramsOk s.cfg = true ∧
      s.cfg.assumePanelLive = true ∧ s.env.busy = [] ∧ s.ShifterReady ∧
      (s.epd.epdPowered = true → s.epd.spiConnected = true) ∧ tag = flashRead s.env 0x001000 ∧
      tag = s.cfg.type2bpp :=
  ⟨⟨{ rst with env := { calm with flash := image 0x1000 } }, 0x20, rfl, rfl, test_tc_is_a_configuration, rfl, rfl,
      nofun, nofun, by decide +kernel, rfl, by decide⟩,
    ⟨{ rst with env := { calm with flash := [(0x1000, 0x21)] } }, 0x21, rfl, rfl, test_tc_is_a_configuration, rfl,
      rfl, nofun, nofun, by decide +kernel, rfl⟩⟩

/-- Both tags on a panel that is not live. -/
theorem witness_DrawImageStreamsThePlanes_not_live :
    ∀ tag ∈ [tcDead.type1bpp, tcDead.type2bpp], ∃ s : State, s.Quiet ∧ s.cfg.packedPlanes = false ∧
      paramsOk s.cfg = true ∧ s.cfg.assumePanelLive = false ∧ s.env.busy = [] ∧ s.ShifterReady ∧
      (s.epd.epdPowered = true → s.epd.spiConnected = true) ∧ tag = flashRead s.env 0x001000 := by
  simp only [List.forall_mem_cons, List.not_mem_nil, false_implies, implies_true, and_true]
  exact ⟨⟨{ rst with cfg := tcDead, env := { calm with flash := [(0x1000, 0x20)] } }, rfl, rfl, tcDead_is_a_configuration,
      rfl, rfl, nofun, nofun, by decide +kernel⟩,
    ⟨{ rst with cfg := tcDead, env := { calm with flash := [(0x1000, 0x21)] } }, rfl, rfl, tcDead_is_a_configuration,
      rfl, rfl, nofun, nofun, by decide +kernel⟩⟩

theorem witness_DrawScreenRunsBothPasses_refused :
    (∃ s : State, s.Quiet ∧ s.cfg.packedPlanes = true) ∧
      callbackWords rst.cfg 2 0 0 .mono = 0x14000000#32 :: [] ∧ (opcodeOf 0x14000000#32).toNat < 0x22 :=
  ⟨⟨{ rst with cfg := { tc with packedPlanes := true } }, rfl, rfl⟩, by decide +kernel, by decide⟩

theorem witness_DrawScreenRunsBothPasses :
    rst.Quiet ∧ rst.cfg.packedPlanes = false ∧ paramsOk rst.cfg = true ∧ rst.cfg.assumePanelLive = true ∧
      rst.env.busy = [] ∧ rst.ShifterReady ∧ (rst.epd.epdPowered = true → rst.epd.spiConnected = true) ∧
      ∀ y c p, y < rst.cfg.screenH → c < rst.cfg.numChunks → ∀ w ∈ callbackWords rst.cfg 7 y c p,
        decode w = .ok .clientPrintEnd ∨ (∃ start width, decode w = .ok (.clientSetWindowX start width)) ∨
          ∃ start height, decode w = .ok (.clientSetWindowY start height) := by
  refine ⟨rfl, rfl, test_tc_is_a_configuration, rfl, rfl, nofun, nofun, fun y c p hy hc => ?_⟩
  have hnone : callbackWords rst.cfg 7 y c p = [] := by
    have : ∀ p ∈ [Plane.mono, Plane.accent], ∀ y, y < 4 → ∀ c, c < 2 → callbackWords tc 7 y c p = [] := by
      decide +kernel
    exact this p (by cases p <;> simp) y hy c hc
  intro w hw
  rw [hnone] at hw
  cases hw

/-- V45's callback, which loads a bitmap on every scanline: its words all end with a status. -/
theorem witness_DrawScreenRunsBothPasses_general :
    ∃ s : State, s.Quiet ∧ s.cfg.packedPlanes = false ∧ paramsOk s.cfg = true ∧ s.cfg.assumePanelLive = true ∧
      s.env.busy = [] ∧ s.ShifterReady ∧ s.Unmarked ∧ callbackWords s.cfg 1 0 0 .mono = [0x24000300#32] ∧
      (s.screenDrawn 1).isSome = true :=
  ⟨poke 0x300 [0, 0, 0, 0, 0, 8, 0, 1, 0, 0xF0] rst, rfl, rfl, test_tc_is_a_configuration, rfl, rfl, nofun, ⟨rfl, rfl⟩,
    by decide +kernel, by decide +kernel⟩

/-- The same callback's screen draw going on at a busy wait. -/
theorem witness_DrawScreenRunsBothPasses_going_on :
    ∃ s t : State, s.HeldQuiet ∧ s.hostPos = .busyWait .line11 (.drawScreen 7 .accent) ∧ s.env.busy = [] ∧
      s.cfg.assumePanelLive = true ∧ paramsOk s.cfg = true ∧ s.epd.spiConnected = true ∧
      s.draw.passPlane = some .accent ∧
      State.screenFrom 7 .accent (((s.programmedFrom .line11).startSent true).nestedReturn 0x13#8 .ok) = some t :=
  ⟨{ waiting tc .line11 (.drawScreen 7 .accent) with
      draw := { rst.ctxReset.draw with passPlane := some .accent } }, _, ⟨⟨rfl, rfl⟩, rfl, rfl, rfl, rfl⟩, rfl, rfl,
    rfl, test_tc_is_a_configuration, rfl, rfl, rfl⟩

/-- The empty callback (TC's id 7) on a panel that is not live: a powered one, and one at the last wait of power-up. -/
theorem witness_DrawScreenRunsBothPasses_not_live :
    (∃ s t : State, s.Quiet ∧ s.cfg.packedPlanes = false ∧ paramsOk s.cfg = true ∧ s.cfg.assumePanelLive = false ∧
      s.env.busy = [] ∧ s.ShifterReady ∧ (s.epd.epdPowered = true → s.epd.spiConnected = true) ∧ s.Unmarked ∧
      s.screenDrawnFree 7 = some t) ∧
    ∃ s t : State, s.HeldQuiet ∧ s.hostPos = .busyWait .line12 (.drawScreen 7 .mono) ∧ s.env.busy = [] ∧
      paramsOk s.cfg = true ∧ s.epd.spiConnected = true ∧ s.draw.passPlane = some .mono ∧
      s.cfg.assumePanelLive = false ∧
      State.startOrStay (.drawScreen 7 .mono) .mono some (State.screenFreeFrom 7 .mono) (s.freeFrom .line12) = some t := by
  constructor
  · refine ⟨{ powered with cfg := tcDead }, _, rfl, rfl, tcDead_is_a_configuration, rfl, rfl, nofun, fun _ => rfl,
      ⟨rfl, rfl⟩, (Option.some_get (?_ : (State.screenDrawnFree 7 { powered with cfg := tcDead }).isSome = true)).symm⟩
    decide +kernel
  · let s := waiting tcDead .line12 (.drawScreen 7 .mono)
    have h : (State.startOrStay (.drawScreen 7 .mono) .mono some (State.screenFreeFrom 7 .mono)
        (s.freeFrom .line12)).isSome = true := by
      rw [State.freeFrom, State.freeFrom12]
      split
      · rfl
      · change (State.screenFreeFrom 7 .mono
          ((((s.drawn 1).setupSent).startSent false).nestedReturn 0x13#8 .ok)).isSome = true
        decide +kernel
    exact ⟨s, _, ⟨⟨rfl, rfl⟩, rfl, rfl, rfl, rfl⟩, rfl, rfl, tcDead_is_a_configuration, rfl, rfl, rfl,
      (Option.some_get h).symm⟩

theorem witness_RadioCommandsLeaveTheDisplay :
    ∃ t, (Instr.radioFlush).ofRadio = true ∧ exec .radioFlush ready = .next t ∧
      ∀ a, ∀ dst : U16, Instr.radioFlush = .radioReceive dst → a < dst.toNat ∨ dst.toNat + 255 < a :=
  ⟨_, rfl, rfl, fun _ _ h => by cases h⟩

theorem witness_DisplayCommandsLeaveTheRadio :
    ∃ t, (Instr.epdShutdown).ofRadio = false ∧ exec .epdShutdown powered = .next t := ⟨_, rfl, rfl⟩

theorem witness_PrimitivesNeverEraseInk :
    ∃ t, (Instr.clientPrintEnd).drawOnly = true ∧ exec .clientPrintEnd (texting 0 0 0 .vertical) = .next t ∧
      (texting 0 0 0 .vertical).draw.scratch.read 3 = some 0#8 := ⟨_, rfl, rfl, rfl⟩

/-- A state with cells, a used slot and a live bus meets every invariant, and steps. -/
theorem witness_StepKeepsInvariants :
    ∃ s t : State, s.MemoriesOk ∧ s.RangesOk ∧ s.SectionsClosed ∧ s.ArbiterOk ∧ s.BusOk ∧ s.hostMem ≠ [] ∧
      s.radio.txPowerIdx = some 15 ∧ s.ring.freeCount = some 3 ∧ step s = .next t := by
  refine ⟨{ poke 0x100 [1, 0x55] listening with epd := powered.epd }, _,
    ⟨by decide +kernel, rfl, rfl, by decide +kernel, ?_, ?_, ?_, ?_⟩, ⟨?_, ?_⟩, ⟨fun _ => ⟨rfl, rfl⟩, nofun⟩,
    fun _ => ⟨fun _ => rfl, ⟨nofun, nofun⟩⟩, ⟨nofun, nofun, fun _ => ⟨fun _ => rfl, nofun, nofun⟩⟩, by decide +kernel, rfl,
    rfl, rfl⟩
  · unfold CellsAt; decide +kernel
  · exact fun c h => by cases h
  · exact fun c h => by cases h
  · unfold CellsAt; decide +kernel
  · intro i h; cases h; decide
  · intro n h; cases h; decide

end Sys2Proof.Tests
end

/-! PROOF. Every command, and every agent's step, is tidy: it keeps the ranged registers in range however it ends, and
where it goes on or stands at a hold it has restored the interrupt enable and opened no callback (R10, R13, R34, R95).
From that the step lemma about the ranges and the sections follows. -/

namespace Sys2Proof.Machine

variable {α β : Type} {H : Prop}

/-! ### Tidy pieces of a command -/

/-- What a piece of a command that goes on has kept: the ranges, the interrupt enable, and that no callback runs. -/
structure Calm (s t : State) : Prop where
  ranges : s.RangesOk → t.RangesOk
  ie : t.irq.ie = s.irq.ie
  closed : s.draw.drawing = false → t.draw.drawing = false

theorem Calm.of_eq {s t : State} (hidx : t.radio.txPowerIdx = s.radio.txPowerIdx)
    (hfree : t.ring.freeCount = s.ring.freeCount) (hie : t.irq.ie = s.irq.ie)
    (hdraw : t.draw.drawing = s.draw.drawing) : Calm s t :=
  ⟨fun h => by rwa [State.RangesOk, hidx, hfree], hie, fun h => hdraw.trans h⟩

theorem calm_chains : Chains Calm where
  refl _ := .of_eq rfl rfl rfl rfl
  trans h k := ⟨k.ranges ∘ h.ranges, k.ie.trans h.ie, k.closed ∘ h.closed⟩

/-- The end of a run from `s`. A fault or a refusal ends the run, so it may leave a section open; a hold does not, and
`H` says whether there may be one. -/
def TidyEnd (H : Prop) (s : State) : EStateM.Result Stop State α → Prop
  | .ok _ t => Calm s t
  | .error (.hold p) t => Calm s t ∧ H ∧ ∀ op n, p ≠ .line op n
  | .error (.fault _) t => s.RangesOk → t.RangesOk
  | .error (.refuse _) t => s.RangesOk → t.RangesOk

/-- Every run of `m` ends tidily. `Tidy False m`: and `m` has no hold, as the body of a critical section or of a
callback must not. -/
def Tidy (H : Prop) (m : M α) : Prop := ∀ s, TidyEnd H s (m.run s)

theorem TidyEnd.after {s t : State} (h : Calm s t) {r : EStateM.Result Stop State α} (hr : TidyEnd H t r) :
    TidyEnd H s r := by
  match r with
  | .ok _ _ => exact calm_chains.trans h hr
  | .error (.hold _) _ => exact ⟨calm_chains.trans h hr.1, hr.2⟩
  | .error (.fault _) _ => exact hr ∘ h.ranges
  | .error (.refuse _) _ => exact hr ∘ h.ranges

theorem Tidy.bind {m : M α} {f : α → M β} (hm : Tidy H m) (hf : ∀ a, Tidy H (f a)) : Tidy H (m >>= f) := by
  intro s
  have h := hm s
  rw [EStateM.run_bind]
  match m.run s, h with
  | .ok a t, h => exact (hf a t).after h
  | .error (.hold _) _, h => exact h
  | .error (.fault _) _, h => exact h
  | .error (.refuse _) _, h => exact h

theorem Tidy.seq {m : M α} {k : M β} (hm : Tidy H m) (hk : Tidy H k) : Tidy H (m >>= fun _ => k) :=
  hm.bind fun _ => hk

theorem Tidy.pure (a : α) : Tidy H (Pure.pure a : M α) := calm_chains.refl

theorem Tidy.get_bind {f : State → M β} (h : ∀ s, Tidy H (f s)) : Tidy H (get >>= f) := fun s => h s s

theorem Tidy.ite {p : Prop} [Decidable p] {m n : M α} (hm : Tidy H m) (hn : Tidy H n) :
    Tidy H (if p then m else n) := by
  split
  · exact hm
  · exact hn

/-- A line that runs only under a condition, before the rest. -/
theorem Tidy.ite_seq {p : Prop} [Decidable p] {m : M α} {k : M β} (hm : Tidy H m) (hk : Tidy H k) :
    Tidy H (if p then m >>= fun _ => k else k) :=
  .ite (hm.seq hk) hk

theorem tidy_raise (f : Fault) : Tidy H (raise f : M α) := fun _ => id

theorem tidy_refuse (x : Refusal) : Tidy H (refuse x : M α) := fun _ => id

theorem tidy_stayAt {p : HostPos} (hp : ∀ op n, p ≠ .line op n) : Tidy True (stayAt p : M α) :=
  fun s => ⟨calm_chains.refl s, trivial, hp⟩

theorem tidy_modify {f : State → State} (h : ∀ s, Calm s (f s)) : Tidy H (modify f) := h

theorem tidy_readReg (no : Nat) (r : Option α) : Tidy H (readReg no r) := by
  cases r with
  | none => exact tidy_raise _
  | some a => exact .pure a

theorem tidy_forEach {f : α → M Unit} (h : ∀ a, Tidy H (f a)) (as : List α) : Tidy H (forEach f as) := by
  induction as with
  | nil => exact .pure ()
  | cons a as ih => exact (h a).seq ih

theorem tidy_forLine {head : M Unit} {f : α → M Unit} (hh : Tidy H head) (h : ∀ a, Tidy H (f a)) (as : List α) :
    Tidy H (forLine head f as) :=
  (tidy_forEach (fun a => hh.seq (h a)) as).seq hh

/-- A critical section whose body has no hold is closed again (R34). -/
theorem tidy_atomic {m : M α} (hm : Tidy False m) : Tidy H (atomic m) := by
  intro s
  have h := hm (s.onIrq fun q => { q with ie := false })
  rw [atomic_run]
  match m.run (s.onIrq fun q => { q with ie := false }), h with
  | .ok _ _, h => exact ⟨h.ranges, rfl, h.closed⟩
  | .error (.hold _) _, h => exact h.2.1.elim
  | .error (.fault _) _, h => exact h
  | .error (.refuse _) _, h => exact h

theorem tidy_oneStep {m : M Unit} (hm : Tidy H m) : Tidy H (oneStep m) := by
  intro s
  have h := hm s
  rw [oneStep_run]
  match m.run s, h with
  | .ok _ _, h => exact h
  | .error (.hold _) _, h => exact ⟨calm_chains.refl s, h.2⟩
  | .error (.fault _) _, _ => exact id
  | .error (.refuse _) _, _ => exact id

/-- The lines of a callback, between the two that set and clear `drawing` (R95 lines 10 and 14). -/
def duringCallback (body : M Unit) : M Unit := do
  setDraw fun d => { d with drawing := true }
  body
  setDraw fun d => { d with drawing := false }

/-- A callback whose lines have no hold is closed again (R95). -/
theorem tidy_duringCallback {m : M Unit} (hm : Tidy False m) : Tidy H (duringCallback m) := by
  intro s
  have h := hm (s.onDraw fun d => { d with drawing := true })
  rw [duringCallback, run_bind_ok (setDraw_run _ s), EStateM.run_bind]
  match m.run (s.onDraw fun d => { d with drawing := true }), h with
  | .ok _ _, h => exact ⟨h.ranges, h.ie, fun _ => rfl⟩
  | .error (.hold _) _, h => exact h.2.1.elim
  | .error (.fault _) _, h => exact h
  | .error (.refuse _) _, h => exact h

/-! ### Updates and accesses -/

theorem tidy_emit (e : Event) : Tidy H (emit e) := tidy_modify fun _ => .of_eq rfl rfl rfl rfl

theorem tidy_setArb (f : Arbiter → Arbiter) : Tidy H (setArb f) := tidy_modify fun _ => .of_eq rfl rfl rfl rfl

theorem tidy_setRes (f : Results → Results) : Tidy H (setRes f) := tidy_modify fun _ => .of_eq rfl rfl rfl rfl

theorem tidy_setEpd (f : Display → Display) : Tidy H (setEpd f) := tidy_modify fun _ => .of_eq rfl rfl rfl rfl

theorem tidy_setEnv (f : Env → Env) : Tidy H (setEnv f) := tidy_modify fun _ => .of_eq rfl rfl rfl rfl

theorem tidy_moveTo (p : HostPos) : Tidy H (moveTo p) := tidy_modify fun _ => .of_eq rfl rfl rfl rfl

theorem tidy_setRadio {f : RadioFlags → RadioFlags}
    (h : ∀ r, (f r).txPowerIdx = r.txPowerIdx := by exact fun _ => rfl) : Tidy H (setRadio f) :=
  tidy_modify fun s => .of_eq (h s.radio) rfl rfl rfl

theorem tidy_setRing {f : Ring → Ring} (h : ∀ r, (f r).freeCount = r.freeCount := by exact fun _ => rfl) :
    Tidy H (setRing f) :=
  tidy_modify fun s => .of_eq rfl (h s.ring) rfl rfl

theorem tidy_setIrq {f : Interrupt → Interrupt} (h : ∀ q, (f q).ie = q.ie := by exact fun _ => rfl) :
    Tidy H (setIrq f) :=
  tidy_modify fun s => .of_eq rfl rfl (h s.irq) rfl

theorem tidy_setDraw {f : Draw → Draw} (h : ∀ d, (f d).drawing = d.drawing := by exact fun _ => rfl) :
    Tidy H (setDraw f) :=
  tidy_modify fun s => .of_eq rfl rfl rfl (h s.draw)

/-- An index of the power table is in 0..20 (R10). -/
theorem tidy_setTxPowerIdx {i : Nat} (hi : i ≤ 20) : Tidy H (setRadio fun r => { r with txPowerIdx := some i }) :=
  tidy_modify fun _ => ⟨fun h => ⟨fun _ hj => Option.some.inj hj ▸ hi, h.2⟩, rfl, id⟩

/-- A count of free slots is in 0..3 (R13). -/
theorem tidy_setRing_freeCount {f : Ring → Ring} {n : Nat} (hn : n ≤ 3) (hf : ∀ r, (f r).freeCount = some n) :
    Tidy H (setRing f) :=
  tidy_modify fun s => ⟨fun h => ⟨h.1, fun _ hm => Option.some.inj ((hf s.ring).symm.trans hm) ▸ hn⟩, rfl, id⟩

/-- The guard of R13 keeps the free count in range. -/
theorem tidy_setFreeCount (v : Int) : Tidy H (setFreeCount v) := by
  unfold setFreeCount
  split
  case isTrue hv => exact tidy_setRing_freeCount (by omega) fun _ => rfl
  case isFalse => exact tidy_raise _

theorem tidy_setValue (v : U16) : Tidy H (setValue v) := tidy_setRes _

theorem tidy_hostRead (a : Nat) : Tidy H (hostRead a) :=
  .get_bind fun s => .ite (tidy_raise _) <| by
    split
    · exact .pure _
    · exact tidy_raise _

theorem tidy_hostWrite (a : Nat) (v : Byte) : Tidy H (hostWrite a v) :=
  .get_bind fun _ => .ite (tidy_raise _) <| tidy_modify fun _ => .of_eq rfl rfl rfl rfl

theorem tidy_hostReadBytes (a n : Nat) : Tidy H (hostReadBytes a n) := by
  induction n generalizing a with
  | zero => exact .pure []
  | succ n ih => exact .bind (tidy_hostRead a) fun _ => .bind (ih (a + 1)) fun _ => .pure _

theorem tidy_hostU16 (a : Nat) : Tidy H (hostU16 a) :=
  .bind (tidy_hostRead a) fun _ => .bind (tidy_hostRead (a + 1)) fun _ => .pure _

theorem tidy_ringRead (r : Fin 3) (o : Nat) : Tidy H (ringRead r o) :=
  .get_bind fun s => .ite (tidy_raise _) <| by
    split
    · exact .pure _
    · exact tidy_raise _

theorem tidy_scratchRead (o : Nat) : Tidy H (scratchRead o) :=
  .get_bind fun s => .ite (tidy_raise _) <| by
    split
    · exact .pure _
    · exact tidy_raise _

theorem tidy_scratchWrite (o : Nat) (v : Byte) : Tidy H (scratchWrite o v) :=
  .get_bind fun _ => .ite (tidy_raise _) tidy_setDraw

theorem tidy_freeAnswer (free : Nat → α) : Tidy H (freeAnswer free) :=
  .get_bind fun _ => (tidy_setEnv _).seq (.pure _)

/-- The environment's answers, each from its list or free (R20). -/
theorem tidy_draws : Tidy H drawId ∧ Tidy H adcSample ∧ Tidy H drawKeep ∧ Tidy H drawAck ∧ Tidy H drawRace := by
  refine ⟨.get_bind fun s => ?_, .get_bind fun s => ?_, .get_bind fun s => ?_, .get_bind fun s => ?_,
    .get_bind fun s => ?_⟩
  all_goals
    split
    · exact (tidy_setEnv _).seq (.pure _)
    · exact tidy_freeAnswer _

theorem tidy_drawId : Tidy H drawId := tidy_draws.1

theorem tidy_adcSample : Tidy H adcSample := tidy_draws.2.1

theorem tidy_drawKeep : Tidy H drawKeep := tidy_draws.2.2.1

theorem tidy_drawAck : Tidy H drawAck := tidy_draws.2.2.2.1

theorem tidy_drawRace : Tidy H drawRace := tidy_draws.2.2.2.2

theorem tidy_busyRead (level : Bool) : Tidy H (busyRead level) :=
  .get_bind fun s => by
    split
    · exact (tidy_setEnv _).seq (.pure _)
    · exact .ite (.pure _) (tidy_freeAnswer _)

theorem tidy_busWrite (a v : Byte) : Tidy H (busWrite a v) :=
  (tidy_emit _).seq <| tidy_modify fun _ => .of_eq rfl rfl rfl rfl

theorem tidy_busReadId : Tidy H busReadId :=
  .get_bind fun _ => .bind tidy_drawId fun _ => (tidy_emit _).seq (.pure _)

theorem tidy_strobe (k : StrobeKind) : Tidy H (strobe k) := tidy_emit _

theorem tidy_command {op : Byte} {body : M Status} (h : Tidy H body) : Tidy H (command op body) :=
  h.bind fun _ => (tidy_setRes _).seq (tidy_emit _)

theorem tidy_issue {op : Byte} {body : M Status} (h : Tidy H body) : Tidy H (issue op body) :=
  .get_bind fun _ => (tidy_moveTo _).seq <| (tidy_command h).seq (tidy_moveTo _)

/-! ### The agents' steps and the points between lines -/

theorem tidy_rxStart {gap : M Unit} (hgap : Tidy False gap) : Tidy H (rxStart gap) :=
  tidy_atomic <| hgap.seq <| .get_bind fun _ => .ite
    (.bind (tidy_readReg _ _) fun _ => .ite
      ((tidy_setArb _).seq <| hgap.seq <| .get_bind fun _ => .bind (tidy_readReg _ _) fun _ =>
        (tidy_emit _).seq <| hgap.seq <| (tidy_strobe _).seq <| hgap.seq (tidy_setArb _))
      (.pure _))
    (.pure _)

theorem tidy_frameValid (r : Fin 3) : Tidy H (frameValid r) :=
  .get_bind fun _ => .bind (tidy_ringRead _ _) fun _ => .ite (.bind (tidy_ringRead _ _) fun _ => .pure _) (.pure _)

theorem tidy_frameArrival (f : List Byte) : Tidy H (frameArrival f) :=
  .get_bind fun _ => .ite
    (.bind (tidy_readReg _ _) fun _ => .seq tidy_setRing <| (tidy_emit _).seq <| (tidy_setArb _).seq tidy_setIrq)
    (.pure _)

theorem tidy_txDoneStep : Tidy H txDoneStep :=
  .get_bind fun _ => .ite ((tidy_emit _).seq (tidy_setArb _)) (.pure _)

theorem tidy_isrStep : Tidy H isrStep :=
  have start : Tidy False (rxStart (Pure.pure ())) := tidy_rxStart (.pure ())
  .get_bind fun _ => .ite
    (tidy_atomic <| .seq tidy_setIrq <| .seq tidy_setRadio <| .bind (tidy_readReg _ _) fun _ =>
      .bind (tidy_frameValid _) fun _ => (tidy_emit _).seq <| .ite
        (.seq tidy_setRing <| .bind (tidy_readReg _ _) fun _ => (tidy_setFreeCount _).seq start)
        start)
    (.pure _)

theorem tidy_spiStep : Tidy H spiStep :=
  .get_bind fun _ => .ite
    (.ite (tidy_raise _) <| .bind (tidy_readReg _ _) fun _ => (tidy_emit _).seq (tidy_setEpd _))
    (.pure _)

theorem tidy_takeMove (m : Move) : Tidy H (takeMove m) := by
  cases m with
  | frameArrival f => exact tidy_frameArrival f
  | txDone => exact tidy_txDoneStep
  | isr => exact tidy_isrStep
  | spiStep => exact tidy_spiStep

theorem tidy_tick : Tidy H tick :=
  .get_bind fun s => by
    split
    · exact .pure ()
    · exact (tidy_setEnv _).seq (tidy_forEach tidy_takeMove _)

theorem tidy_atLine (op : Byte) (n : Nat) : Tidy H (atLine op n) := (tidy_moveTo _).seq tidy_tick

/-- A numbered line of a command, then the rest. -/
theorem Tidy.line {op : Byte} {n : Nat} {k : M β} (hk : Tidy H k) : Tidy H (atLine op n >>= fun _ => k) :=
  (tidy_atLine op n).seq hk

/-- A point between two lines, then the rest. -/
theorem Tidy.point {k : M β} (hk : Tidy H k) : Tidy H (tick >>= fun _ => k) := tidy_tick.seq hk

theorem tidy_awaitShifter : Tidy H awaitShifter := .point (tidy_takeMove _)

theorem tidy_sleep (ms : Nat) : Tidy H (sleep ms) := (tidy_emit _).seq tidy_tick

theorem tidy_awaitBusyUpTo (level : Bool) (w : BusyWait) (caller : PowerCaller) (fuel : Nat) :
    Tidy True (awaitBusyUpTo level (.busyWait w caller) fuel) := by
  induction fuel with
  | zero => exact tidy_stayAt nofun
  | succ n ih => exact .point <| .bind (tidy_busyRead level) fun _ => .ite (.pure ()) ih

theorem tidy_awaitBusy (level : Bool) (w : BusyWait) (caller : PowerCaller) :
    Tidy True (awaitBusy level (.busyWait w caller)) :=
  .get_bind fun _ => tidy_awaitBusyUpTo level w caller _

theorem tidy_fairWhenUnscheduled : Tidy H fairWhenUnscheduled :=
  .get_bind fun s => by
    split
    · exact tidy_forEach tidy_takeMove _
    · exact .pure ()

/-! ### The radio half -/

theorem tidy_rxStartIfNeeded : Tidy H rxStartIfNeeded := tidy_rxStart tidy_tick

theorem tidy_rxStopHw (keep : Bool) : Tidy H (rxStopHw keep) :=
  tidy_atomic <| .point <| (tidy_strobe _).seq <| .point <| (tidy_setArb _).seq <| .point <| (tidy_setArb _).seq <|
    .point <| .ite (.bind tidy_drawKeep fun _ => tidy_setIrq) tidy_setIrq

theorem tidy_applyTable (t : List Byte) : Tidy H (applyTable t) :=
  .get_bind fun s => by
    split
    · exact tidy_refuse _
    · exact tidy_atomic <| tidy_forEach (fun _ => .point (tidy_busWrite _ _)) _

theorem paIndex_le_20 (dBm : Int) : paIndex dBm ≤ 20 := by
  unfold paIndex clampDbm
  split
  · decide
  · split <;> omega

theorem tidy_setPaHw (dBm : Int) : Tidy H (setPaHw dBm) :=
  .get_bind fun s => by
    split
    · exact tidy_refuse _
    · exact .point <| (tidy_busWrite _ _).seq <| .point <| tidy_setTxPowerIdx (paIndex_le_20 dBm)

theorem tidy_radioInit : Tidy H radioInit :=
  .get_bind fun _ => .line <| .seq (tidy_atomic <| (tidy_setArb _).seq tidy_setIrq) <|
    .line <| (tidy_strobe _).seq <| .line <| .seq tidy_setRadio <| .line <| .bind tidy_busReadId fun _ =>
    .line <| .ite
      (.line <| .seq tidy_setRadio <| .line <| .pure _)
      (.line <| .seq tidy_setRadio <| .line <| .seq tidy_setRadio <| .point <| (tidy_applyTable _).seq <|
        .line <| (tidy_setPaHw _).seq <|
        .line <| .seq (tidy_atomic <| tidy_setRing_freeCount (show ringN ≤ 3 from le_rfl) fun _ => rfl) <|
        .line <| (tidy_setArb _).seq <| .seq tidy_setRadio <| .line <| .seq tidy_setRadio <| .line <| .pure _)

theorem tidy_gated (op : Byte) (allowsTest : Bool) {onClosed : M Unit} {body : M Status} (hc : Tidy H onClosed)
    (hb : Tidy H body) : Tidy H (gated op allowsTest onClosed body) :=
  .line <| .get_bind fun _ => .ite (hc.seq (.pure _)) <| .ite hb <|
    .line <| .get_bind fun _ => .ite (tidy_refuse _) hb

theorem tidy_selectBand (b : Band) : Tidy H (selectBand b) :=
  .get_bind fun _ => .ite (.seq tidy_setRadio <| .point <| tidy_applyTable _) (.pure _)

theorem tidy_bandTests (ch : Byte) : Tidy H (bandTests ch) :=
  .get_bind fun _ => .line <| .ite (.pure _) <| .line <| .ite (.pure _) (tidy_atLine _ _)

theorem tidy_radioSetChannel (ch : Byte) : Tidy H (radioSetChannel ch) :=
  tidy_gated _ _ (.pure _) <| .get_bind fun _ => (tidy_bandTests ch).seq <| .line <| (tidy_selectBand _).seq <|
    .line <| .seq tidy_setRadio <| .line <| (tidy_busWrite _ _).seq <| .line <| .pure _

theorem tidy_radioSetTxPower (dBm : Byte) : Tidy H (radioSetTxPower dBm) :=
  tidy_gated _ _ (.pure _) <| .line <| (tidy_setPaHw _).seq <| .line <| .pure _

theorem tidy_enterFreqTest : Tidy H enterFreqTest :=
  .get_bind fun _ => .line <| (tidy_rxStopHw _).seq <| .line <| .seq tidy_setRadio <| .point <| tidy_applyTable _

theorem tidy_leaveFreqTest : Tidy H leaveFreqTest :=
  .line <| .get_bind fun s => .bind (tidy_readReg _ _) fun _ => .seq tidy_setRadio <| .point <|
    (tidy_applyTable _).seq <| .line <| by
      split
      · exact (tidy_busWrite _ _).seq <| .line tidy_rxStartIfNeeded
      · exact .line tidy_rxStartIfNeeded

theorem tidy_radioSetFreqTest (on : Bool) : Tidy H (radioSetFreqTest on) :=
  tidy_gated _ _ (.pure _) <| .line <| .get_bind fun _ => .ite
    (tidy_enterFreqTest.seq <| .line <| .pure _)
    (.line <| .get_bind fun _ => .ite_seq tidy_leaveFreqTest <| .line <| .pure _)

theorem tidy_transmitEnd : Tidy H transmitEnd :=
  .line <| (tidy_setArb _).seq <| .line <| tidy_rxStartIfNeeded.seq <| .line <| (tidy_setValue _).seq <|
    .line <| .pure _

theorem tidy_transmitTimeout : Tidy H transmitTimeout :=
  .line <| (tidy_strobe _).seq <| (tidy_setArb _).seq <| .point <| tidy_rxStartIfNeeded.seq <| .point <|
    (tidy_setValue _).seq <| .pure _

theorem tidy_xcvrBetweenPolls : Tidy H xcvrBetweenPolls :=
  .get_bind fun s => by
    split
    · exact .ite (tidy_takeMove _) <| .bind (tidy_freeAnswer _) fun _ => .ite (tidy_takeMove _) (.pure _)
    · exact .pure _

theorem tidy_transmitPolls (fuel polls : Nat) : Tidy True (transmitPolls fuel polls) := by
  induction fuel generalizing polls with
  | zero => exact tidy_stayAt nofun
  | succ n ih =>
    exact .line <| .line <| .bind tidy_adcSample fun _ => (tidy_emit _).seq <| .get_bind fun _ =>
      .bind (tidy_readReg _ _) fun _ => (tidy_setArb _).seq <| .line <| .get_bind fun _ => .ite tidy_transmitEnd <|
      .line <| .ite tidy_transmitTimeout <| tidy_xcvrBetweenPolls.seq <| ih _

theorem tidy_transmitLoop (polls : Nat) : Tidy True (transmitLoop polls) :=
  .get_bind fun _ => tidy_transmitPolls _ polls

theorem tidy_radioTransmit (buf : U16) : Tidy True (radioTransmit buf) :=
  tidy_gated _ _ (tidy_setValue _) <| .get_bind fun _ => .line <| .bind (tidy_hostRead _) fun _ => .line <| .ite
    ((tidy_setValue _).seq <| .pure _)
    (.line <| (tidy_rxStopHw _).seq <| .line <| .bind (tidy_hostReadBytes _ _) fun _ => (tidy_setArb _).seq <|
      .line <| (tidy_setArb _).seq <| .line <| (tidy_strobe _).seq <| (tidy_setArb _).seq <|
      .line <| (tidy_setArb _).seq <| tidy_transmitLoop _)

theorem tidy_slotRead (r : Fin 3) (o : Nat) : Tidy H (slotRead r o) :=
  .get_bind fun _ => .ite (tidy_raise _) <| .ite tidy_drawRace (tidy_ringRead r o)

theorem tidy_receiveByte (dst : U16) (r : Fin 3) (i : Nat) : Tidy H (receiveByte dst r i) :=
  .line <| .bind (tidy_slotRead _ _) fun _ => tidy_hostWrite _ _

theorem tidy_freeSlot : Tidy H freeSlot :=
  .get_bind fun _ => .bind (tidy_readReg _ _) fun _ =>
    (tidy_oneStep <| tidy_atomic <| tidy_setFreeCount _).seq <| .pure _

theorem tidy_receiveFrame (dst : U16) : Tidy H (receiveFrame dst) :=
  .line <| .get_bind fun _ => .bind (tidy_readReg _ _) fun r => .line <| .bind (tidy_slotRead _ _) fun _ =>
    .line <| .ite (tidy_raise _) <|
    .line <| .bind (tidy_slotRead _ _) fun _ => (tidy_setRes _).seq <|
    .line <| .bind (tidy_slotRead _ _) fun _ => (tidy_setRes _).seq <|
    (tidy_forEach (tidy_receiveByte dst r) _).seq <| .line <| .seq tidy_setRing <|
    .line <| .bind tidy_freeSlot fun _ => .line <| .ite_seq tidy_rxStartIfNeeded <|
    .line <| (tidy_setValue _).seq <| .line <| .pure _

theorem tidy_radioReceive (dst : U16) : Tidy H (radioReceive dst) :=
  tidy_gated _ _ (.pure _) <| .line <| .get_bind fun _ => .bind (tidy_readReg _ _) fun _ =>
    .ite (.pure _) (tidy_receiveFrame dst)

theorem tidy_flushRing : Tidy H flushRing :=
  .get_bind fun _ => .bind (tidy_readReg _ _) fun _ => (tidy_atomic <| tidy_setFreeCount _).seq <| .pure _

theorem tidy_radioFlush : Tidy H radioFlush :=
  tidy_gated _ _ (.pure _) <| .line <| .bind tidy_flushRing fun _ => .line <| .ite_seq tidy_rxStartIfNeeded <|
    .line <| .pure _

theorem tidy_radioEnableRx (on : Bool) : Tidy H (radioEnableRx on) :=
  tidy_gated _ _ (.pure _) <| .line <| .ite
    (.line <| .seq (tidy_atomic <| (tidy_rxStopHw _).seq <| .point <| .seq tidy_setRadio (tidy_setArb _)) <|
      .line <| .pure _)
    (.line <| .get_bind fun _ => .ite
      (.line <| (tidy_setArb _).seq <| .line <| tidy_rxStartIfNeeded.seq <| .line <| .pure _)
      (.line <| .pure _))

theorem tidy_radioRxAckGetLast : Tidy H radioRxAckGetLast :=
  tidy_gated _ _ (tidy_setValue _) <| .line <| .bind tidy_drawAck fun _ => .line <| (tidy_setValue _).seq <|
    .line <| .pure _

theorem tidy_platformSetRadioEnabled (on : Bool) : Tidy H (platformSetRadioEnabled on) :=
  .line <| .seq tidy_setRadio <| .line <| .pure _

/-! ### The display half -/

theorem tidy_pinCs (level : Bool) (c : Ctrl) : Tidy H (pinCs level c) := (tidy_setEpd _).seq (tidy_emit _)

theorem tidy_pinCsAll (level : Bool) : Tidy H (pinCsAll level) :=
  .get_bind fun _ => tidy_forEach (fun c => .point (tidy_pinCs level c)) _

theorem tidy_pinRst (level : Bool) : Tidy H (pinRst level) := (tidy_setEpd _).seq (tidy_emit _)

theorem tidy_pinPwr (level : Bool) : Tidy H (pinPwr level) := (tidy_setEpd _).seq (tidy_emit _)

theorem tidy_spiMux (on : Bool) : Tidy H (spiMux on) := (tidy_setEpd _).seq (tidy_emit _)

theorem tidy_panelSend (t : CtrlSet) (k : ByteKind) (b : Byte) : Tidy H (panelSend t k b) :=
  tidy_awaitShifter.seq <| .point <| (tidy_setEpd _).seq <| .point <| tidy_setEpd _

theorem tidy_sendEntry (cmd : Byte) (data : List Byte) : Tidy H (sendEntry cmd data) :=
  .get_bind fun _ => tidy_awaitShifter.seq <| (tidy_pinCsAll _).seq <| (tidy_panelSend _ _ _).seq <|
    (tidy_forEach (tidy_panelSend _ _) data).seq <| tidy_awaitShifter.seq <| tidy_pinCsAll _

theorem tidy_sendTable (t : List Byte) : Tidy H (sendTable t) :=
  .get_bind fun s => by
    split
    · exact tidy_refuse _
    · exact tidy_forEach (fun _ => tidy_sendEntry _ _) _

theorem tidy_epdSendTable (id : Byte) : Tidy H (epdSendTable id) :=
  .line <| .get_bind fun s => by
    split
    · exact tidy_refuse _
    · exact .ite (tidy_refuse _) <| .line <| (tidy_sendTable _).seq <| .line <| .pure _

theorem tidy_goTo (caller : PowerCaller) (n : Nat) : Tidy H (caller.goTo n) := by
  cases caller with
  | command => exact tidy_moveTo _
  | startTransfer _ => exact .pure ()
  | drawImage _ _ => exact .pure ()
  | drawScreen _ _ => exact .pure ()

theorem tidy_powerAtLine (caller : PowerCaller) (n : Nat) : Tidy H (caller.atLine n) :=
  (tidy_goTo caller n).seq tidy_tick

theorem tidy_finish (caller : PowerCaller) : Tidy H caller.finish := by
  cases caller with
  | command => exact tidy_atLine _ _
  | startTransfer _ => exact .pure ()
  | drawImage _ _ => exact .pure ()
  | drawScreen _ _ => exact .pure ()

theorem tidy_powerUpFrom12 (caller : PowerCaller) : Tidy True (powerUpFrom12 caller) :=
  .get_bind fun _ => (tidy_goTo _ _).seq <| (tidy_awaitBusy _ _ _).seq <| (tidy_powerAtLine _ _).seq <|
    (tidy_sendTable _).seq <| (tidy_powerAtLine _ _).seq <| (tidy_sendEntry _ _).seq <|
    (tidy_powerAtLine _ _).seq <| (tidy_setEpd _).seq <| tidy_finish caller

theorem tidy_powerUpFrom11 (caller : PowerCaller) : Tidy True (powerUpFrom11 caller) :=
  .get_bind fun _ => (tidy_goTo _ _).seq <| (tidy_awaitBusy _ _ _).seq <| tidy_powerUpFrom12 caller

theorem tidy_powerUpFrom8 (caller : PowerCaller) : Tidy True (powerUpFrom8 caller) :=
  .get_bind fun _ => (tidy_goTo _ _).seq <| (tidy_awaitBusy _ _ _).seq <| (tidy_powerAtLine _ _).seq <|
    (tidy_sendTable _).seq <| (tidy_powerAtLine _ _).seq <| (tidy_sendEntry _ _).seq <| tidy_powerUpFrom11 caller

theorem tidy_powerUpFrom (w : BusyWait) (caller : PowerCaller) : Tidy True (powerUpFrom w caller) := by
  cases w with
  | line8 => exact tidy_powerUpFrom8 caller
  | line11 => exact tidy_powerUpFrom11 caller
  | line12 => exact tidy_powerUpFrom12 caller

theorem tidy_powerUpIfNeeded (caller : PowerCaller) : Tidy True (powerUpIfNeeded caller) :=
  have line (n : Nat) {k : M Unit} (hk : Tidy True k) : Tidy True (caller.atLine n >>= fun _ => k) :=
    (tidy_powerAtLine caller n).seq hk
  line 1 <| .get_bind fun _ => .ite (.pure _) <| line 2 <| (tidy_pinCsAll _).seq <| line 3 <| (tidy_pinPwr _).seq <|
    line 4 <| (tidy_spiMux _).seq <| line 5 <| (tidy_sleep _).seq <| line 6 <| (tidy_pinRst _).seq <|
    line 7 <| (tidy_sleep _).seq <| tidy_powerUpFrom8 caller

theorem tidy_epdPowerUpIfNeeded : Tidy True epdPowerUpIfNeeded := (tidy_powerUpIfNeeded _).seq (.pure _)

theorem tidy_shutdown {point : Nat → M Unit} (h : ∀ n, Tidy H (point n)) : Tidy H (shutdown point) :=
  (h 1).seq <| .get_bind fun _ => .ite (.pure _) <| (h 2).seq <| (tidy_sendTable _).seq <| (h 3).seq <|
    tidy_awaitShifter.seq <| (h 4).seq <| (tidy_spiMux _).seq <| (h 5).seq <| (tidy_pinCsAll _).seq <|
    (h 6).seq <| (tidy_pinRst _).seq <| (h 7).seq <| (tidy_pinPwr _).seq <| (h 8).seq <| (tidy_setEpd _).seq <|
    (h 9).seq <| (tidy_setEpd _).seq (h 10)

theorem tidy_epdShutdown : Tidy H epdShutdown := (tidy_shutdown (tidy_atLine _)).seq (.pure _)

theorem tidy_startTransferTail (accent : Bool) : Tidy H (startTransferTail accent) :=
  .line <| .get_bind fun _ => (tidy_sendEntry _ _).seq <| .line <| (tidy_setEpd _).seq <| .line <| .pure _

theorem tidy_startTransfer (caller : PowerCaller) (accent : Bool) : Tidy True (startTransfer caller accent) :=
  (tidy_powerUpIfNeeded caller).seq (tidy_startTransferTail accent)

theorem tidy_epdSendByte (b : Byte) : Tidy H (epdSendByte b) :=
  .line <| .get_bind fun _ => .ite (tidy_refuse _) <| .line <| .line <| (tidy_panelSend _ _ _).seq <|
    .line <| (tidy_setEpd _).seq <| .line <| .pure _

theorem tidy_refreshPolls (caller : RefreshCaller) (fuel : Nat) (m : U16) :
    Tidy True (refreshPolls caller fuel m) := by
  induction fuel generalizing m with
  | zero => exact tidy_stayAt nofun
  | succ n ih =>
    exact .get_bind fun _ => .line <| .line <| (tidy_sleep _).seq <| .line <| .bind tidy_adcSample fun _ =>
      (tidy_emit _).seq <| .line <| .bind (tidy_busyRead _) fun _ => .ite (.pure _) (ih _)

theorem tidy_refreshFrom (caller : RefreshCaller) (m : U16) : Tidy True (refreshFrom caller m) :=
  .get_bind fun _ => .bind (tidy_refreshPolls _ _ _) fun _ => .line <| (tidy_setEpd _).seq <|
    .line <| (tidy_emit _).seq <|
    .line <| (tidy_shutdown fun _ => .ite tidy_tick (.pure ())).seq <| .line <| .pure _

theorem tidy_refreshAndSleep (caller : RefreshCaller) : Tidy True (refreshAndSleep caller) :=
  .line <| .get_bind fun _ => .ite (tidy_refuse _) <| .line <| (tidy_sendTable _).seq <|
    .line <| tidy_refreshFrom caller _

/-! ### The compositing primitives -/

theorem tidy_drawCtxReset : Tidy H drawCtxReset :=
  .get_bind fun _ => .point <| .seq tidy_setDraw <| .point <| .seq tidy_setDraw <| .point <| .seq tidy_setDraw <|
    .point <| .seq tidy_setDraw <| .point <| .seq tidy_setDraw <| .point <| .seq tidy_setDraw <| .point tidy_setDraw

theorem tidy_bias : Tidy H bias :=
  .get_bind fun _ => .ite (.bind (tidy_readReg _ _) fun _ => .pure _) (.pure _)

theorem tidy_orPixel (x y : Nat) : Tidy H (orPixel x y) :=
  .point <| .get_bind fun _ => .bind (tidy_readReg _ _) fun _ => .bind (tidy_readReg _ _) fun _ => .ite (.pure _) <|
    .bind (tidy_readReg _ _) fun _ => .bind (tidy_readReg _ _) fun _ => .ite (.pure _) <|
    .bind (tidy_readReg _ _) fun _ => .bind (tidy_readReg _ _) fun _ => .bind (tidy_readReg _ _) fun _ =>
    .ite (.pure _) <| .bind tidy_bias fun _ => .ite (tidy_raise _) <|
    .bind (tidy_scratchRead _) fun _ => tidy_scratchWrite _ _

theorem tidy_setWindowY {point : Nat → M Unit} (h : ∀ n, Tidy H (point n)) (start height : Nat) :
    Tidy H (setWindowY point start height) :=
  (h 2).seq <| .seq tidy_setDraw <| (h 3).seq <| .get_bind fun _ => .bind (tidy_readReg _ _) fun _ =>
    (h 4).seq <| .seq tidy_setDraw <| (tidy_setRes _).seq <| (h 5).seq <| .ite
      ((h 6).seq <| .seq tidy_setDraw <| (h 7).seq <| .get_bind fun _ => .bind (tidy_readReg _ _) fun _ =>
        .bind tidy_bias fun _ => .seq tidy_setDraw <| .pure _)
      (.pure _)

theorem tidy_setWinX (x w : Nat) : Tidy H (setWinX x w) := tidy_setDraw

theorem tidy_setCurX (x : Nat) : Tidy H (setCurX x) := tidy_setDraw

theorem tidy_inDraw (i : Instr) {body : M Status} (h : Tidy H body) : Tidy H (inDraw i body) :=
  .line <| .get_bind fun _ => .ite (tidy_refuse _) h

theorem tidy_clientSetWindowX (start width : BitVec 12) : Tidy H (clientSetWindowX start width) :=
  tidy_inDraw _ <| .line <| (tidy_setWinX _ _).seq <| (tidy_setCurX _).seq <| .line <| .pure _

theorem tidy_clientSetWindowY (start height : BitVec 12) : Tidy H (clientSetWindowY start height) :=
  tidy_inDraw _ <| (tidy_setWindowY (tidy_atLine _) _ _).seq <| .line <| .pure _

theorem tidy_bitmapRows (a x y w h : Nat) : Tidy H (bitmapRows a x y w h) :=
  have pixel (rb r k : Nat) : Tidy H (bitmapPixel a x y rb r k) :=
    .line <| .bind (tidy_hostRead _) fun _ => .ite (tidy_orPixel _ _) (.pure _)
  have row (rb r : Nat) : Tidy H (bitmapRow a x y w rb r) := tidy_forLine (tidy_atLine _ _) (pixel rb r) _
  .line <| .get_bind fun _ => .bind (tidy_readReg _ _) fun _ => tidy_forLine (tidy_atLine _ _) (row _) _

theorem tidy_clientLoadRawBitmap (a : U16) : Tidy H (clientLoadRawBitmap a) :=
  tidy_inDraw _ <| .line <| .bind (tidy_hostU16 _) fun _ => .bind (tidy_hostU16 _) fun _ =>
    .bind (tidy_hostRead _) fun col => .bind (tidy_hostU16 _) fun _ => .bind (tidy_hostU16 _) fun _ => .line <| by
      split
      · exact tidy_refuse _
      · exact .line <| .seq tidy_setDraw <| .line <| (tidy_setWinX _ _).seq <| (tidy_setCurX _).seq <|
          .line <| .bind (tidy_setWindowY (fun _ => tidy_tick) _ _) fun _ => .line <| .ite (.pure _) <|
          (tidy_bitmapRows _ _ _ _ _).seq <| .line <| .pure _

theorem tidy_clientPrintBegin (a : U16) : Tidy H (clientPrintBegin a) :=
  tidy_inDraw _ <| .line <| .bind (tidy_hostU16 _) fun _ => .bind (tidy_hostU16 _) fun _ =>
    .bind (tidy_hostRead _) fun dir => .bind (tidy_hostRead _) fun _ => .bind (tidy_hostRead _) fun col => .line <| by
      split
      · exact tidy_refuse _
      · split
        · exact tidy_refuse _
        · exact .line <| .seq tidy_setDraw <| .line <| .seq tidy_setDraw <| .line <| .pure _

theorem tidy_glyphPixels (g : Glyph) {place : Nat → Nat → M Unit} (h : ∀ r k, Tidy H (place r k)) :
    Tidy H (glyphPixels g place) :=
  tidy_forEach (fun r => tidy_forEach (fun k => .ite (h r k) (.pure ())) _) _

theorem tidy_writeUpright (g : Glyph) (x y : Nat) : Tidy H (writeUpright g x y) :=
  .line <| (tidy_setWinX _ _).seq <| .bind (tidy_setWindowY (fun _ => tidy_tick) _ _) fun _ => .line <| .ite
    (.line <| (tidy_glyphPixels g fun _ _ => tidy_orPixel _ _).seq <| .line <| tidy_setCurX _)
    (.line <| tidy_setCurX _)

theorem tidy_writeTurned (g : Glyph) (x y : Nat) : Tidy H (writeTurned g x y) :=
  .line <| (tidy_setWinX _ _).seq <| .bind (tidy_setWindowY (fun _ => tidy_tick) _ _) fun _ => .line <| .ite
    (.line <| (tidy_glyphPixels g fun _ _ => tidy_orPixel _ _).seq <| .line tidy_setDraw)
    (.line tidy_setDraw)

theorem tidy_clientWriteChar (ch : Byte) : Tidy H (clientWriteChar ch) :=
  tidy_inDraw _ <| .line <| .get_bind fun _ => .ite (tidy_refuse _) <| .line <|
    .bind (tidy_readReg _ _) fun _ => .bind (tidy_readReg _ _) fun dir => .bind (tidy_readReg _ _) fun _ =>
    .bind (tidy_readReg _ _) fun _ => .line <| by
      cases dir with
      | horizontal => exact (tidy_writeUpright _ _ _).seq <| .line <| .pure _
      | vertical => exact (tidy_writeTurned _ _ _).seq <| .line <| .pure _

theorem tidy_clientPrintEnd : Tidy H clientPrintEnd :=
  tidy_inDraw _ <| .line <| .seq tidy_setDraw <| .line <| .pure _

theorem tidy_barcodeColumns (x y height : Nat) (bars : List Bool) : Tidy H (barcodeColumns x y height bars) := by
  induction bars generalizing x with
  | nil => exact tidy_atLine _ _
  | cons bar bars ih =>
    exact .line <| .line <| .ite_seq (tidy_forEach (fun _ => tidy_orPixel _ _) _) (ih _)

theorem tidy_clientPrintBarcode (a : U16) : Tidy H (clientPrintBarcode a) :=
  tidy_inDraw _ <| .line <| .get_bind fun _ => .bind (tidy_hostU16 _) fun _ => .bind (tidy_hostU16 _) fun _ =>
    .bind (tidy_hostRead _) fun _ => .bind (tidy_hostReadBytes _ _) fun _ => .line <| .line <| .seq tidy_setDraw <|
    .line <| (tidy_setWinX _ _).seq <| (tidy_setCurX _).seq <|
    .line <| .bind (tidy_setWindowY (fun _ => tidy_tick) _ _) fun _ => .line <| .ite (.pure _) <|
    (tidy_barcodeColumns _ _ _ _).seq <| .line <| .pure _

/-! ### The two whole draws -/

/-- A callback's word has no hold: it is one of the seven primitives or is refused (R95). -/
theorem tidy_callbackWord (w : Word) : Tidy H (callbackWord w) :=
  have primitive (i : Instr) : Tidy H (issuePrimitive w i) := by
    cases i with
    | clientSetWindowX start width => exact tidy_issue (tidy_clientSetWindowX start width)
    | clientSetWindowY start height => exact tidy_issue (tidy_clientSetWindowY start height)
    | clientLoadRawBitmap a => exact tidy_issue (tidy_clientLoadRawBitmap a)
    | clientPrintBegin a => exact tidy_issue (tidy_clientPrintBegin a)
    | clientWriteChar ch => exact tidy_issue (tidy_clientWriteChar ch)
    | clientPrintEnd => exact tidy_issue tidy_clientPrintEnd
    | clientPrintBarcode a => exact tidy_issue (tidy_clientPrintBarcode a)
    | _ => exact tidy_refuse _
  .line <| .ite (tidy_refuse _) <| .line <| by
    split
    · exact tidy_refuse _
    · exact primitive _

theorem tidy_streamChunk : Tidy H streamChunk :=
  .get_bind fun _ => tidy_forEach (fun _ => .point <| .get_bind fun _ => .bind (tidy_readReg _ _) fun _ =>
    .bind (tidy_scratchRead _) fun _ => tidy_forEach (fun o => tidy_issue (tidy_epdSendByte o)) _) _

theorem tidy_zeroChunk : Tidy H zeroChunk := .get_bind fun _ => tidy_forEach (fun _ => tidy_scratchWrite _ _) _

theorem tidy_loadChunk : Tidy H loadChunk :=
  .get_bind fun _ => .bind (tidy_readReg _ _) fun _ => (tidy_emit _).seq <| .line <|
    (tidy_forEach (fun _ => tidy_scratchWrite _ _) _).seq <| .line tidy_setDraw

theorem tidy_enterChunk (c : Nat) : Tidy H (enterChunk c) := .get_bind fun _ => tidy_setDraw

theorem tidy_imageChunk (twoPlanes : Bool) (p : Plane) (c : Nat) : Tidy H (imageChunk twoPlanes p c) :=
  .line <| (tidy_enterChunk c).seq <| .line <| .ite
    (.line <| tidy_loadChunk.seq <| .line tidy_streamChunk)
    (.line <| tidy_zeroChunk.seq <| .line tidy_streamChunk)

theorem tidy_imageChunks (twoPlanes : Bool) (p : Plane) : Tidy H (imageChunks twoPlanes p) :=
  .get_bind fun _ => tidy_forLine (tidy_atLine _ _) (tidy_imageChunk twoPlanes p) _

theorem tidy_imagePass (twoPlanes : Bool) (p : Plane) : Tidy True (imagePass twoPlanes p) :=
  .line <| .line <| .get_bind fun _ => .ite (.pure _) <| .line <| .seq tidy_setDraw <|
    .line <| (tidy_issue (tidy_startTransfer _ _)).seq <| tidy_imageChunks twoPlanes p

theorem tidy_imageEnd : Tidy True imageEnd :=
  .line <| .line <| (tidy_issue (tidy_refreshAndSleep _)).seq <| .line <| .pure _

theorem tidy_imageAfterStart (twoPlanes : Bool) (p : Plane) : Tidy True (imageAfterStart twoPlanes p) :=
  (tidy_imageChunks twoPlanes p).seq <| by
    cases p with
    | mono => exact (tidy_imagePass _ _).seq tidy_imageEnd
    | accent => exact tidy_imageEnd

theorem tidy_clientDrawImage (addr : U24) : Tidy True (clientDrawImage addr) :=
  have supported (twoPlanes : Bool) : Tidy True (drawSupported addr twoPlanes) :=
    .line <| tidy_drawCtxReset.seq <| .line <| .line <| .seq tidy_setDraw <| (tidy_imagePass _ _).seq <|
      (tidy_imagePass _ _).seq tidy_imageEnd
  .line <| .get_bind fun _ => .ite (tidy_refuse _) <| .line <| (tidy_emit _).seq <| .line <| .ite
    (.line <| (tidy_emit _).seq <| .line <| .pure _)
    (supported _)

/-- A scanline is a point and a callback. -/
theorem screenLine_eq (cb : Byte) (p : Plane) (c l : Nat) :
    screenLine cb p c l = (do
      atLine 0x21#8 10
      duringCallback (do
        let s ← get
        let top ← readReg 44 s.draw.chunkStartY
        forLine (atLine 0x21#8 11) callbackWord (callbackWords s.cfg cb (top.toNat + l) c p)
        atLine 0x21#8 14)) := by
  simp only [screenLine, duringCallback, bind_assoc]

theorem tidy_screenLine (cb : Byte) (p : Plane) (c l : Nat) : Tidy H (screenLine cb p c l) := by
  rw [screenLine_eq]
  exact .line <| tidy_duringCallback <| .get_bind fun _ => .bind (tidy_readReg _ _) fun _ =>
    (tidy_forLine (tidy_atLine _ _) tidy_callbackWord _).seq (tidy_atLine _ _)

theorem tidy_screenChunks (cb : Byte) (p : Plane) : Tidy H (screenChunks cb p) :=
  .get_bind fun _ => tidy_forLine (tidy_atLine _ _)
    (fun c => .line <| (tidy_enterChunk c).seq <| .line <| tidy_zeroChunk.seq <| .get_bind fun _ =>
      (tidy_forLine (tidy_atLine _ _) (tidy_screenLine cb p c) _).seq <| .line tidy_streamChunk) _

theorem tidy_screenPass (cb : Byte) (p : Plane) : Tidy True (screenPass cb p) :=
  .line <| .line <| .seq tidy_setDraw <| .line <| (tidy_issue (tidy_startTransfer _ _)).seq <| tidy_screenChunks cb p

theorem tidy_screenEnd : Tidy True screenEnd :=
  .line <| .line <| (tidy_issue (tidy_refreshAndSleep _)).seq <| .line <| .pure _

theorem tidy_screenAfterStart (cb : Byte) (p : Plane) : Tidy True (screenAfterStart cb p) :=
  (tidy_screenChunks cb p).seq <| by
    cases p with
    | mono => exact (tidy_screenPass _ _).seq tidy_screenEnd
    | accent => exact tidy_screenEnd

theorem tidy_clientDrawScreen (cb : Byte) : Tidy True (clientDrawScreen cb) :=
  .line <| .get_bind fun _ => .ite (tidy_refuse _) <| .line <| tidy_drawCtxReset.seq <| (tidy_screenPass _ _).seq <|
    (tidy_screenPass _ _).seq tidy_screenEnd

/-! ### A step -/

/-- The ranges hold, interrupts are on and no callback runs: what a run of the host or of an agent starts from. -/
structure State.Between (s : State) : Prop where
  ranges : s.RangesOk
  ie : s.irq.ie = true
  closed : s.draw.drawing = false

/-- What a run settles to: the ranges hold, and the sections are closed. -/
def State.InOrder (s : State) : Prop := s.RangesOk ∧ s.SectionsClosed

theorem Calm.between {s t : State} (h : Calm s t) (hs : s.Between) : t.Between :=
  ⟨h.ranges hs.ranges, h.ie.trans hs.ie, h.closed hs.closed⟩

theorem State.Between.inOrder {s : State} (h : s.Between) {p : HostPos} (hp : ∀ op n, p ≠ .line op n) :
    (s.withHostPos p).InOrder :=
  ⟨h.ranges, fun _ => ⟨h.ie, h.closed⟩, hp⟩

theorem State.sectionsClosed_of_marked {s : State} (h : ¬s.Unmarked) : (s.withHostPos .idle).SectionsClosed :=
  ⟨fun hs => absurd hs h, nofun⟩

/-- A tidy run settles with its sections closed, or with a mark. -/
theorem settle_closes {m : M Unit} (hm : Tidy True m) {s : State} (hs : s.Between) : (settle (m.run s)).InOrder := by
  have h := hm s
  match m.run s, h with
  | .ok _ _, h => exact (h.between hs).inOrder nofun
  | .error (.hold _) _, ⟨h, _, hp⟩ => exact (h.between hs).inOrder hp
  | .error (.fault _) _, h => exact ⟨h hs.ranges, State.sectionsClosed_of_marked fun hu => nomatch hu.1⟩
  | .error (.refuse _) _, h => exact ⟨h hs.ranges, State.sectionsClosed_of_marked fun hu => nomatch hu.2⟩

theorem resumeCommand_closes {op : Byte} {body : M Status} (h : Tidy True body) {s : State} (hs : s.Between) :
    (resumeCommand op body s).InOrder :=
  settle_closes (tidy_command h) hs

/-- Every instruction is a run of a tidy command. -/
theorem exec_runs_tidy_command (i : Instr) :
    ∃ op body, Tidy True body ∧ ∀ s, exec i s = .next (runCommand op body s) := by
  cases i with
  | radioInit => exact ⟨_, _, tidy_radioInit, fun _ => rfl⟩
  | radioSetChannel ch => exact ⟨_, _, tidy_radioSetChannel ch, fun _ => rfl⟩
  | radioSetTxPower dBm => exact ⟨_, _, tidy_radioSetTxPower dBm, fun _ => rfl⟩
  | radioTransmit buf => exact ⟨_, _, tidy_radioTransmit buf, fun _ => rfl⟩
  | radioEnableRx on => exact ⟨_, _, tidy_radioEnableRx on, fun _ => rfl⟩
  | radioReceive dst => exact ⟨_, _, tidy_radioReceive dst, fun _ => rfl⟩
  | radioFlush => exact ⟨_, _, tidy_radioFlush, fun _ => rfl⟩
  | radioRxAckGetLast => exact ⟨_, _, tidy_radioRxAckGetLast, fun _ => rfl⟩
  | radioSetFreqTest on => exact ⟨_, _, tidy_radioSetFreqTest on, fun _ => rfl⟩
  | platformSetRadioEnabled on => exact ⟨_, _, tidy_platformSetRadioEnabled on, fun _ => rfl⟩
  | epdSendTable id => exact ⟨_, _, tidy_epdSendTable id, fun _ => rfl⟩
  | epdPowerUpIfNeeded => exact ⟨_, _, tidy_epdPowerUpIfNeeded, fun _ => rfl⟩
  | epdShutdown => exact ⟨_, _, tidy_epdShutdown, fun _ => rfl⟩
  | epdStartTransfer accent => exact ⟨_, _, tidy_startTransfer _ accent, fun _ => rfl⟩
  | epdSendByte b => exact ⟨_, _, tidy_epdSendByte b, fun _ => rfl⟩
  | epdRefreshAndSleep => exact ⟨_, _, tidy_refreshAndSleep _, fun _ => rfl⟩
  | clientDrawImage addr => exact ⟨_, _, tidy_clientDrawImage addr, fun _ => rfl⟩
  | clientDrawScreen cb => exact ⟨_, _, tidy_clientDrawScreen cb, fun _ => rfl⟩
  | clientSetWindowX start width => exact ⟨_, _, tidy_clientSetWindowX start width, fun _ => rfl⟩
  | clientSetWindowY start height => exact ⟨_, _, tidy_clientSetWindowY start height, fun _ => rfl⟩
  | clientLoadRawBitmap a => exact ⟨_, _, tidy_clientLoadRawBitmap a, fun _ => rfl⟩
  | clientPrintBegin a => exact ⟨_, _, tidy_clientPrintBegin a, fun _ => rfl⟩
  | clientWriteChar ch => exact ⟨_, _, tidy_clientWriteChar ch, fun _ => rfl⟩
  | clientPrintEnd => exact ⟨_, _, tidy_clientPrintEnd, fun _ => rfl⟩
  | clientPrintBarcode a => exact ⟨_, _, tidy_clientPrintBarcode a, fun _ => rfl⟩

theorem exec_closes {i : Instr} {s t : State} (hs : s.Between) (h : exec i s = .next t) : t.InOrder := by
  obtain ⟨op, body, hbody, hexec⟩ := exec_runs_tidy_command i
  cases (hexec s).symm.trans h
  exact resumeCommand_closes hbody ⟨hs.ranges, hs.ie, hs.closed⟩

theorem goOnPowering_closes (w : BusyWait) (caller : PowerCaller) {s : State} (hs : s.Between) :
    (goOnPowering w caller s).InOrder := by
  have fair : Tidy True fairWhenUnscheduled := tidy_fairWhenUnscheduled
  have up : Tidy True (powerUpFrom w caller) := tidy_powerUpFrom w caller
  cases caller with
  | command => exact resumeCommand_closes (fair.seq <| up.seq <| .pure _) hs
  | startTransfer a => exact resumeCommand_closes (fair.seq <| up.seq <| tidy_startTransferTail a) hs
  | drawImage twoPlanes p =>
    exact resumeCommand_closes
      (fair.seq <| (tidy_command <| up.seq <| tidy_startTransferTail _).seq <| tidy_imageAfterStart twoPlanes p) hs
  | drawScreen cb p =>
    exact resumeCommand_closes
      (fair.seq <| (tidy_command <| up.seq <| tidy_startTransferTail _).seq <| tidy_screenAfterStart cb p) hs

theorem goOnRefreshing_closes (m : U16) (caller : RefreshCaller) {s : State} (hs : s.Between) :
    (goOnRefreshing m caller s).InOrder := by
  have fair : Tidy True fairWhenUnscheduled := tidy_fairWhenUnscheduled
  have refresh : Tidy True (refreshFrom caller m) := tidy_refreshFrom caller m
  cases caller with
  | command => exact resumeCommand_closes (fair.seq refresh) hs
  | drawImage => exact resumeCommand_closes (fair.seq <| (tidy_command refresh).seq <| .line <| .pure _) hs
  | drawScreen => exact resumeCommand_closes (fair.seq <| (tidy_command refresh).seq <| .line <| .pure _) hs

/-- The host going on at a hold leaves its sections closed; it stands at no other line. -/
theorem goOn_closes {s : State} (hs : s.Between) (hpos : ∀ op n, s.hostPos ≠ .line op n) : (goOn s).InOrder := by
  unfold goOn
  split
  case h_1 => exact ⟨hs.ranges, fun _ => ⟨hs.ie, hs.closed⟩, hpos⟩
  case h_2 op n h => exact absurd h (hpos op n)
  case h_3 polls _ => exact resumeCommand_closes (tidy_fairWhenUnscheduled.seq <| tidy_transmitLoop polls) hs
  case h_4 w caller _ => exact goOnPowering_closes w caller hs
  case h_5 m caller _ => exact goOnRefreshing_closes m caller hs

/-- What a turn leads to: a state that is in order, or a command from a state that is. -/
def TurnCloses : Turn → Prop
  | .settled t => t.InOrder
  | .run _ u => u.Between

theorem hostTurn_closes {s : State} (hs : s.Between) (hpos : s.hostPos = .idle) : TurnCloses (hostTurn s) := by
  have hline : ∀ op n, s.hostPos ≠ .line op n := by simp [hpos]
  unfold hostTurn
  split
  case h_1 => exact settle_closes tidy_fairWhenUnscheduled hs
  case h_2 => exact settle_closes (tidy_hostWrite _ _) ⟨hs.ranges, hs.ie, hs.closed⟩
  case h_3 =>
    split
    case h_1 => exact ⟨hs.ranges, hs.ie, hs.closed⟩
    case h_2 => exact ⟨hs.ranges, fun _ => ⟨hs.ie, hs.closed⟩, hline⟩

theorem modelStart_closes {s : State} (hs : s.Between) (hpos : ∀ op n, s.hostPos ≠ .line op n) :
    (modelStart s).InOrder := by
  unfold modelStart
  split <;> exact ⟨hs.ranges, fun _ => ⟨hs.ie, hs.closed⟩, hpos⟩

theorem nextTurn_closes {s : State} (hs : s.Between) (hpos : ∀ op n, s.hostPos ≠ .line op n) :
    TurnCloses (nextTurn s) := by
  unfold nextTurn
  split
  case isTrue => exact modelStart_closes hs hpos
  case isFalse =>
    split
    case h_1 hidle =>
      split
      case h_1 => exact hostTurn_closes hs hidle
      case h_2 => exact hostTurn_closes ⟨hs.ranges, hs.ie, hs.closed⟩ hidle
      case h_3 => exact settle_closes (tidy_takeMove _) ⟨hs.ranges, hs.ie, hs.closed⟩
    all_goals exact goOn_closes hs hpos

end Sys2Proof.Machine

namespace Sys2Proof

open Sys2Proof.Machine

/-- Settles O57: the turn a step takes starts from closed sections, and every run from there is tidy. -/
theorem stepKeepsRangesAndSections : Obligations.StepKeepsRangesAndSections := by
  intro s t hranges ⟨hopen, hpos⟩ hstep
  obtain ⟨hfault, hrefuse, hturn⟩ := step_cases hstep
  obtain ⟨hie, hclosed⟩ := hopen ⟨hfault, hrefuse⟩
  have hnext : TurnCloses (nextTurn s) := nextTurn_closes ⟨hranges, hie, hclosed⟩ hpos
  obtain ⟨u, hu, rfl⟩ | ⟨i, u, hu, hexec⟩ := hturn
  · rwa [hu] at hnext
  · rw [hu] at hnext
    exact exec_closes hnext hexec

end Sys2Proof

/-! PROOF. RADIO_RECEIVE of a pending frame (R74). Both kinds of slot, the stored one and the one that races with the RX
DMA (R30), are one notion, `State.SlotGives`: the byte that a slot read answers and the race draws it leaves. The run is
proved once, over a slot that gives a frame. -/

namespace Sys2Proof.Machine

variable {s : State} {r w : Fin 3} {n : Nat} {len b1 b2 : Byte} {bs rest : List Byte}

/-! ### Lines of a quiet command -/

/-- A line and what follows it (R9). -/
theorem atLine_bind_run_quiet {α : Type} {f : Unit → M α} (h : s.env.sched = []) (op : Byte) (k : Nat) :
    (atLine op k >>= f).run s = (f ()).run (s.withHostPos (.line op k)) :=
  run_bind_ok (atLine_run_quiet h op k)

/-- A gated command outside test mode goes on behind its open gate (R56, R57). -/
theorem gated_run_quiet_of_open (h : s.env.sched = []) (hgate : radioGate s.radio = .ok)
    (htest : s.radio.freqTest = false) (op : Byte) (onClosed : M Unit) (body : M Status) :
    (gated op false onClosed body).run s = body.run (s.withHostPos (.line op 2)) := by
  rw [gated, atLine_bind_run_quiet h, run_bind_ok (run_get_ok _), if_neg (by simpa using hgate),
    if_neg Bool.false_ne_true, atLine_bind_run_quiet (by exact h), run_bind_ok (run_get_ok _)]
  simp [htest]

/-! ### Receive starts again -/

theorem State.rxStarted_onRes (f : Results → Results) (w : Fin 3) (k : Nat) :
    (s.onRes f).rxStarted w k = (s.rxStarted w k).onRes f := by
  simp only [State.rxStarted, show (s.onRes f).rxStarts k = s.rxStarts k from rfl]
  split <;> rfl

/-- Receive started again where the ring was full, one slot being free now (R74 line 12). -/
def State.startedIfFull (w : Fin 3) (n : Nat) (s : State) : State := if n = 0 then s.rxStarted w 1 else s

theorem State.withHostPos_startedIfFull (p : HostPos) :
    (s.withHostPos p).startedIfFull w n = (s.startedIfFull w n).withHostPos p := by
  simp only [State.startedIfFull, State.withHostPos_rxStarted]
  split <;> rfl

theorem State.onRes_startedIfFull (f : Results → Results) :
    (s.onRes f).startedIfFull w n = (s.startedIfFull w n).onRes f := by
  simp only [State.startedIfFull, State.rxStarted_onRes]
  split <;> rfl

theorem State.startedIfFull_env : (s.startedIfFull w n).env = s.env := by
  rw [State.startedIfFull]
  split
  · exact State.rxStarted_env w 1
  · rfl

/-- Receive that is armed already does not start (R60). -/
theorem State.startedIfFull_of_armed (h : s.arb.rxArmed = true) : s.startedIfFull w n = s := by
  have hnot : s.rxStarted w 1 = s := if_neg (by simp [State.rxStarts, h])
  rw [State.startedIfFull, hnot, ite_self]

/-! ### The bytes that a slot gives -/

/-- Every reading after a run of bytes is written. -/
theorem Memory.read_writeBytes (m : Memory) (k : Nat) (vs : List Byte) (a : Nat) :
    (m.writeBytes k vs).read a = if k ≤ a ∧ a < k + vs.length then vs[a - k]? else m.read a := by
  split
  case isTrue h =>
    obtain ⟨i, rfl⟩ := Nat.exists_eq_add_of_le h.1
    have hi : i < vs.length := by omega
    rw [Memory.read_writeBytes_inside m k vs hi, Nat.add_sub_cancel_left, List.getElem?_eq_getElem hi]
  case isFalse h =>
    rcases Nat.lt_or_ge a k with hlt | hge
    · exact Memory.read_writeBytes_below m vs hlt
    · exact Memory.read_writeBytes_above m vs (by omega)

/-- The race draws that the environment lists next (R30). -/
def State.withRace (q : List Byte) (s : State) : State := s.onEnv fun v => { v with race := q }

/-- A read of offset `o` of slot `r` answers `b`, the race draws going from `before` to `after`: a draw where the RX DMA
is armed into the slot (R30), and otherwise the stored byte. -/
def State.SlotGives (s : State) (r : Fin 3) (o : Nat) (b : Byte) (before after : List Byte) : Prop :=
  o < slotSize s.cfg ∧
    (s.ArmedInto r ∧ before = b :: after ∨
      ¬s.ArmedInto r ∧ s.ring.cells.read (ringAddr r o) = some b ∧ before = after)

theorem slotRead_run_of_gives {o : Nat} {b : Byte} {after : List Byte}
    (h : s.SlotGives r o b s.env.race after) : (slotRead r o).run s = .ok b (s.withRace after) := by
  obtain ⟨ho, hcase⟩ := h
  rw [slotRead, run_bind_ok (run_get_ok s), if_neg (Nat.not_le.2 ho)]
  rcases hcase with ⟨harmed, hrace⟩ | ⟨hfree, hcell, hrace⟩
  · rw [if_pos (show _ ∧ _ from harmed), drawRace_run, hrace]
    rfl
  · rw [if_neg (show ¬(_ ∧ _) from hfree), ringRead_run, if_neg (Nat.not_le.2 ho), hcell, ← hrace]
    rfl

/-- The reads of the offsets from `o` on answer `bs` in order. -/
def State.SlotGivesAll (s : State) (r : Fin 3) : Nat → List Byte → List Byte → List Byte → Prop
  | _, [], before, after => before = after
  | o, b :: bs, before, after =>
    ∃ mid, s.SlotGives r o b before mid ∧ State.SlotGivesAll s r (o + 1) bs mid after

/-- What the slot gives does not depend on the HOST space, the race draws or the host's position. -/
theorem State.SlotGivesAll.of_eq {t : State} {o : Nat} {before after : List Byte}
    (h : s.SlotGivesAll r o bs before after) (hcfg : t.cfg = s.cfg) (hring : t.ring = s.ring) (harb : t.arb = s.arb) :
    t.SlotGivesAll r o bs before after := by
  induction bs generalizing o before with
  | nil => exact h
  | cons b bs ih =>
    obtain ⟨mid, hb, hbs⟩ := h
    refine ⟨mid, ?_, ih hbs⟩
    rwa [State.SlotGives, State.ArmedInto, hcfg, hring, harb]

/-- Line 9 copies one byte that the slot gives (R74). -/
theorem receiveByte_run_quiet (hq : s.env.sched = []) (dst : U16) {o : Nat} {b : Byte} {after : List Byte}
    (hfit : dst.toNat + o < s.cfg.hostMemSize) (h : s.SlotGives r o b s.env.race after) :
    (receiveByte dst r o).run s =
      .ok () (((s.withRace after).onHostMem fun m => m.write (dst.toNat + o) b).withHostPos (.line 0x06#8 9)) := by
  rw [receiveByte, atLine_bind_run_quiet hq,
    run_bind_ok (slotRead_run_of_gives (s := s.withHostPos (.line 0x06#8 9)) h), hostWrite_run,
    if_neg (by exact Nat.not_le.2 hfit)]
  rfl

/-- Line 9 copies the bytes that the slot gives (R74). -/
theorem receiveBytes_run_quiet (hq : s.env.sched = []) (dst : U16) {o : Nat}
    (hfit : dst.toNat + o + bs.length ≤ s.cfg.hostMemSize) (h : s.SlotGivesAll r o bs s.env.race rest) :
    (forEach (receiveByte dst r) (List.range' o bs.length)).run s =
      .ok () (((s.withRace rest).onHostMem fun m => m.writeBytes (dst.toNat + o) bs).withHostPos
        (if bs.isEmpty then s.hostPos else .line 0x06#8 9)) := by
  induction bs generalizing s o with
  | nil => rw [← show s.env.race = rest from h]; rfl
  | cons b bs ih =>
    obtain ⟨mid, hb, hbs⟩ := h
    rw [List.length_cons] at hfit ⊢
    rw [List.range'_succ, forEach_cons_run, run_bind_ok (receiveByte_run_quiet hq dst (by omega) hb),
      ih (o := o + 1) (by exact hq) (by change _ ≤ s.cfg.hostMemSize; omega) (by exact hbs.of_eq rfl rfl rfl),
      State.withHostPos_hostPos, ite_self]
    rfl

/-! ### The frame that a slot gives -/

/-- In the order of R74 the slot gives the length, the link quality's byte, the signal strength's byte and the bytes to
copy, and the race draws `rest` are left. -/
structure State.FrameGiven (s : State) (r : Fin 3) (len b1 b2 : Byte) (bs rest : List Byte) : Prop where
  length_eq : bs.length = len.toNat + 1
  reads : ∃ q1 q2 q3, s.SlotGives r 0 len s.env.race q1 ∧ s.SlotGives r (len.toNat + 2) b2 q1 q2 ∧
    s.SlotGives r (len.toNat + 1) b1 q2 q3 ∧ s.SlotGivesAll r 0 bs q3 rest

theorem State.SlotHolds.gives (hfree : ¬s.ArmedInto r) (h : s.SlotHolds r bs) {i : Nat} {b : Byte}
    (hb : bs[i]? = some b) (q : List Byte) : s.SlotGives r i b q q := by
  obtain ⟨hsize, hread⟩ := h
  obtain ⟨hi, -⟩ := List.getElem?_eq_some_iff.1 hb
  exact ⟨by omega, .inr ⟨hfree, (hread i hi).trans hb, rfl⟩⟩

theorem State.SlotHolds.givesAll (hfree : ¬s.ArmedInto r) {cs : List Byte} (h : s.SlotHolds r cs) {o : Nat}
    (hbs : bs <+: cs.drop o) (q : List Byte) : s.SlotGivesAll r o bs q q := by
  induction bs generalizing o with
  | nil => rfl
  | cons b bs ih =>
    obtain ⟨tail, htail⟩ := hbs
    refine ⟨q, h.gives hfree ?_ q, ih ⟨tail, ?_⟩⟩
    · rw [← Nat.add_zero o, ← List.getElem?_drop, ← htail]
      rfl
    · rw [← List.tail_drop, ← htail]
      rfl

/-- A stored frame is given, and no race draw is taken. -/
theorem State.SlotHolds.frameGiven (hfree : ¬s.ArmedInto r) {payload : List Byte}
    (h : s.SlotHolds r (len :: payload ++ [b1, b2])) (hlen : payload.length = len.toNat) :
    s.FrameGiven r len b1 b2 (len :: payload) s.env.race where
  length_eq := by rw [List.length_cons, hlen]
  reads := ⟨_, _, _, h.gives hfree rfl _, h.gives hfree (by simp [← hlen]) _, h.gives hfree (by simp [← hlen]) _,
    h.givesAll hfree (List.prefix_append _ _) _⟩

theorem State.ArmedInto.givesAll (harmed : s.ArmedInto r) {o : Nat} (hsize : o + bs.length ≤ slotSize s.cfg) :
    s.SlotGivesAll r o bs (bs ++ rest) rest := by
  induction bs generalizing o with
  | nil => rfl
  | cons b bs ih =>
    rw [List.length_cons] at hsize
    exact ⟨bs ++ rest, ⟨by omega, .inl ⟨harmed, rfl⟩⟩, ih (by omega)⟩

/-- From a slot that races with the RX DMA the next draws are given (R30). -/
theorem State.ArmedInto.frameGiven (harmed : s.ArmedInto r) (hmax : len.toNat ≤ s.cfg.maxPayload)
    (hrace : s.env.race = len :: b2 :: b1 :: bs ++ rest) (hlen : bs.length = len.toNat + 1) :
    s.FrameGiven r len b1 b2 bs rest where
  length_eq := hlen
  reads := by
    have hsize : len.toNat + 3 ≤ slotSize s.cfg := Nat.add_le_add_right hmax 3
    rw [hrace]
    exact ⟨b2 :: b1 :: bs ++ rest, b1 :: bs ++ rest, bs ++ rest, ⟨by omega, .inl ⟨harmed, rfl⟩⟩,
      ⟨by omega, .inl ⟨harmed, rfl⟩⟩, ⟨by omega, .inl ⟨harmed, rfl⟩⟩, harmed.givesAll (by omega)⟩

/-! ### The run -/

/-- The slot is freed (R74 line 11), where one is not free already. -/
theorem freeSlot_run (hn : s.ring.freeCount = some n) (hlt : n < 3) :
    freeSlot.run s = .ok (decide (n = 0)) (s.onRing fun g => { g with freeCount := some (n + 1) }) := by
  have hset : (atomic (setFreeCount ((n : Int) + 1))).run s =
      .ok () (s.onRing fun g => { g with freeCount := some (n + 1) }) := by
    rw [atomic_run_ok (by rw [setFreeCount_run, if_pos (by omega)])]
    rfl
  rw [freeSlot, run_bind_ok (run_get_ok s), hn, run_bind_ok (readReg_some_run _ _ _),
    run_bind_ok (by rw [oneStep_run, hset])]
  rfl

/-- The link quality and the signal strength reported, the race draws `q` left (R74 lines 7 and 8). -/
def State.qualityReported (b1 b2 : Byte) (q : List Byte) (s : State) : State :=
  { s with
    env := { s.env with race := q }, res := { s.res with lqi := some (lqi b2), rssi := some (rssi s.cfg b1) } }

/-- The frame copied to `dst`, its status bytes and length reported, and its slot freed (R74). -/
def State.frameTaken (dst : Nat) (r : Fin 3) (n : Nat) (len b1 b2 : Byte) (bs rest : List Byte) (s : State) : State :=
  { s with
    env := { s.env with race := rest },
    hostMem := s.hostMem.writeBytes dst bs,
    ring := { s.ring with readIdx := some (r + 1), freeCount := some (n + 1) },
    res := { s.res with lqi := some (lqi b2), rssi := some (rssi s.cfg b1), value := some (len.setWidth 16) } }

/-- RADIO_RECEIVE's last lines, after line 11's answer whether the ring was full (R74 lines 12 to 14). -/
def receiveEnd (len : Byte) (wasFull : Bool) : M Status := do
  atLine 0x06#8 12
  if wasFull = true then rxStartIfNeeded else pure ()
  atLine 0x06#8 13
  setValue (len.setWidth 16)
  atLine 0x06#8 14
  pure .ok

theorem receiveEnd_run_quiet (hq : s.env.sched = []) (hn : s.ring.freeCount = some (n + 1))
    (hw : s.ring.writeIdx = some w) :
    (receiveEnd len (decide (n = 0))).run s =
      .ok .ok (((s.onRes fun v => { v with value := some (len.setWidth 16) }).startedIfFull w n).withHostPos
        (.line 0x06#8 14)) := by
  have hstart : ∀ f : Unit → M Status,
      (if decide (n = 0) = true then rxStartIfNeeded >>= f else f ()).run (s.withHostPos (.line 0x06#8 12)) =
        (f ()).run ((s.startedIfFull w n).withHostPos (.line 0x06#8 12)) := by
    intro f
    by_cases hfull : n = 0
    · subst hfull
      rw [if_pos (decide_eq_true rfl),
        run_bind_ok (rxStartIfNeeded_run_quiet (by exact hq) (by exact hn) (by exact hw)), State.withHostPos_rxStarted]
      rfl
    · rw [if_neg (by simpa using hfull), State.startedIfFull, if_neg hfull]
  have hq' : (s.startedIfFull w n).env.sched = [] := by rw [State.startedIfFull_env, hq]
  rw [receiveEnd, atLine_bind_run_quiet hq, hstart, atLine_bind_run_quiet (by exact hq'),
    run_bind_ok (setValue_run _ _), atLine_bind_run_quiet (by exact hq'), State.onRes_startedIfFull]
  rfl

section Receive

variable (hq : s.Quiet) (dst : U16) (hn : s.ring.freeCount = some n) (hlt : n < 3) (hr : s.ring.readIdx = some r)
  (hw : s.ring.writeIdx = some w) (hmax : len.toNat ≤ s.cfg.maxPayload)
  (hfit : dst.toNat + len.toNat < s.cfg.hostMemSize) (h : s.FrameGiven r len b1 b2 bs rest)
include hq hn hlt hr hw hmax hfit h

/-- RADIO_RECEIVE's lines, from wherever the host stands, on a slot that gives a frame which HOST has room for (R74
lines 4 to 14). -/
theorem receiveFrame_run_quiet (p : HostPos) :
    (receiveFrame dst).run (s.withHostPos p) =
      .ok .ok (((s.frameTaken dst.toNat r n len b1 b2 bs rest).startedIfFull w n).withHostPos (.line 0x06#8 14)) := by
  obtain ⟨hlength, q1, q2, q3, h0, h2, h1, hcopy⟩ := h
  rw [receiveFrame, atLine_bind_run_quiet (by exact hq), State.withHostPos_withHostPos, run_bind_ok (run_get_ok _),
    State.withHostPos_ring, hr, run_bind_ok (readReg_some_run _ _ _), atLine_bind_run_quiet (by exact hq),
    run_bind_ok (slotRead_run_of_gives (by exact h0)), atLine_bind_run_quiet (by exact hq),
    if_neg (by exact Nat.not_lt.2 hmax), atLine_bind_run_quiet (by exact hq),
    run_bind_ok (slotRead_run_of_gives (by exact h2)), run_bind_ok (setRes_run _ _),
    atLine_bind_run_quiet (by exact hq), run_bind_ok (slotRead_run_of_gives (by exact h1)),
    run_bind_ok (setRes_run _ _)]
  -- Lines 4 to 8 are folded into their closed form, so that the copy starts from a small state.
  change EStateM.run (_ >>= _) ((s.withHostPos (.line 0x06#8 8)).qualityReported b1 b2 q3) = _
  rw [← hlength, List.range_eq_range',
    run_bind_ok (receiveBytes_run_quiet (by exact hq) dst (by change _ ≤ s.cfg.hostMemSize; omega)
      (by exact hcopy.of_eq rfl rfl rfl)), atLine_bind_run_quiet (by exact hq), run_bind_ok (setRing_run _ _),
    atLine_bind_run_quiet (by exact hq), run_bind_ok (freeSlot_run (by exact hn) hlt)]
  change (receiveEnd len (decide (n = 0))).run _ = _
  rw [receiveEnd_run_quiet (by exact hq) rfl (by exact hw), ← State.withHostPos_startedIfFull,
    ← State.withHostPos_startedIfFull]
  simp only [State.withHostPos, State.onRes, State.onRing, State.onHostMem, State.withRace, State.onEnv,
    State.qualityReported, State.frameTaken, Nat.add_zero]

/-- RADIO_RECEIVE of a frame that its slot gives and HOST has room for (R74). -/
theorem exec_radioReceive_of_frameGiven (hgate : radioGate s.radio = .ok) (htest : s.radio.freqTest = false) :
    exec (.radioReceive dst) s =
      .next (((s.frameTaken dst.toNat r n len b1 b2 bs rest).startedIfFull w n).returned 0x06#8 .ok) := by
  have hrun : (radioReceive dst).run (s.withHostPos (.line 0x06#8 1)) =
      .ok .ok (((s.frameTaken dst.toNat r n len b1 b2 bs rest).startedIfFull w n).withHostPos (.line 0x06#8 14)) := by
    rw [radioReceive, gated_run_quiet_of_open (by exact hq) (by exact hgate) (by exact htest), receiveLines,
      atLine_bind_run_quiet (by exact hq), run_bind_ok (run_get_ok _), State.withHostPos_withHostPos,
      State.withHostPos_withHostPos, State.withHostPos_ring, hn, run_bind_ok (readReg_some_run _ _ _),
      if_neg (by exact Nat.ne_of_lt hlt), receiveFrame_run_quiet hq dst hn hlt hr hw hmax hfit h]
  exact congrArg _ (runCommand_returned hrun)

end Receive

/-- The readings after a copy of `len + 1` bytes. -/
theorem Memory.read_writeBytes_frame (m : Memory) (k : Nat) (hlen : bs.length = len.toNat + 1) (a : Nat) :
    (m.writeBytes k bs).read a = if k ≤ a ∧ a ≤ k + len.toNat then bs[a - k]? else m.read a := by
  rw [Memory.read_writeBytes, hlen, ← Nat.add_assoc]
  simp only [Nat.lt_succ_iff]

end Sys2Proof.Machine

namespace Sys2Proof

open Sys2Proof.Machine

/-- Settles O26: a stored frame and a racing slot both give a frame, and the run over it is the same. -/
theorem receiveCopiesAndFreesTheSlot : Obligations.ReceiveCopiesAndFreesTheSlot := by
  intro s dst r w n len b1 b2 hq hgate htest hn hlt hr hw hmax hfit
  constructor
  · intro payload hfree hslot hlen
    have hgiven := hslot.frameGiven hfree hlen
    exact ⟨_, exec_radioReceive_of_frameGiven hq dst hn hlt hr hw hmax hfit hgiven hgate htest,
      s.hostMem.read_writeBytes_frame dst.toNat hgiven.length_eq⟩
  · intro copied rest harmed hrace hlen
    have hgiven := harmed.frameGiven hmax hrace hlen
    have hrun := exec_radioReceive_of_frameGiven hq dst hn hlt hr hw hmax hfit hgiven hgate htest
    rw [State.startedIfFull_of_armed (by exact harmed.2)] at hrun
    exact ⟨_, hrun, s.hostMem.read_writeBytes_frame dst.toNat hlen⟩

end Sys2Proof

/-! PROOF. The compositing primitives outside a draw-screen callback (R45). All seven are one shape, line 1's check
`inDraw` before a body of their own, so the refusal is proved once, over any body. -/

namespace Sys2Proof.Machine

/-- The commands of opcode 0x22 on are the seven that begin with line 1's check (R43, R45). -/
theorem exec_runs_inDraw_of_drawOnly {i : Instr} (h : i.drawOnly = true) :
    ∃ body, ∀ s, exec i s = .next (runCommand i.opcode (inDraw i body) s) := by
  cases i with
  | clientSetWindowX start width => exact ⟨_, fun _ => rfl⟩
  | clientSetWindowY start height => exact ⟨_, fun _ => rfl⟩
  | clientLoadRawBitmap a => exact ⟨_, fun _ => rfl⟩
  | clientPrintBegin a => exact ⟨_, fun _ => rfl⟩
  | clientWriteChar ch => exact ⟨_, fun _ => rfl⟩
  | clientPrintEnd => exact ⟨_, fun _ => rfl⟩
  | clientPrintBarcode a => exact ⟨_, fun _ => rfl⟩
  | _ => nomatch h

/-- Line 1's check outside a callback: the command's word is refused before its body (R45). -/
theorem inDraw_run_quiet_of_not_drawing {s : State} (hq : s.env.sched = []) (hdraw : s.draw.drawing = false)
    (i : Instr) (body : M Status) :
    (inDraw i body).run s = .error (.refuse (.notInDraw (encode i))) (s.withHostPos (.line i.opcode 1)) := by
  rw [inDraw, atLine_bind_run_quiet hq, run_bind_ok (run_get_ok _), State.withHostPos_draw, if_pos hdraw, refuse_run]

end Sys2Proof.Machine

namespace Sys2Proof

open Sys2Proof.Machine

/-- Settles O40: each primitive is a run of line 1's check, which refuses it. -/
theorem primitivesRunOnlyInACallback : Obligations.PrimitivesRunOnlyInACallback := by
  intro i s hi hq hdraw
  obtain ⟨body, hexec⟩ := exec_runs_inDraw_of_drawOnly hi
  have hrun := inDraw_run_quiet_of_not_drawing (s := s.withHostPos (.line i.opcode 1)) hq hdraw i body
  rw [hexec, runCommand_refused hrun, State.withHostPos_refusedWith, State.withHostPos_refusedWith]

end Sys2Proof

/-! PROOF. The radio gate (R56) and test mode's refusals (R57). The gated commands are one shape, `gated` before lines of
their own, so each answer of the two checks is proved once, over any lines. That the other commands of the radio half never
answer `X_TEST_MODE` is proved as the refusals they can answer under every schedule, `RefusesOnly`: a bad table. -/

namespace Sys2Proof.Machine

variable {α β : Type} {P : Refusal → Prop} {i : Instr} {s : State}

/-! ### The gate and test mode -/

/-- What a command whose gate is closed leaves in the result registers, before its status (R56). -/
def closedResults (i : Instr) (r : Results) : Results :=
  match i with
  | .radioTransmit _ => { r with value := some 0#16 }
  | .radioRxAckGetLast => { r with value := some 0xFFFF#16 }
  | _ => r

/-- A gated command is the gate before lines of its own, with the check of test mode where R57 lists it. -/
theorem exec_runs_gated (h : i.gated = true) :
    ∃ onClosed body, (∀ s, onClosed.run s = .ok () (s.onRes (closedResults i))) ∧
      ∀ s, exec i s = .next (runCommand i.opcode (gated i.opcode (!i.refusedInTest) onClosed body) s) := by
  cases i with
  | radioSetChannel ch => exact ⟨_, _, fun _ => rfl, fun _ => rfl⟩
  | radioSetTxPower dBm => exact ⟨_, _, fun _ => rfl, fun _ => rfl⟩
  | radioTransmit buf => exact ⟨_, _, fun _ => rfl, fun _ => rfl⟩
  | radioEnableRx on => exact ⟨_, _, fun _ => rfl, fun _ => rfl⟩
  | radioReceive dst => exact ⟨_, _, fun _ => rfl, fun _ => rfl⟩
  | radioFlush => exact ⟨_, _, fun _ => rfl, fun _ => rfl⟩
  | radioRxAckGetLast => exact ⟨_, _, fun _ => rfl, fun _ => rfl⟩
  | radioSetFreqTest on => exact ⟨_, _, fun _ => rfl, fun _ => rfl⟩
  | _ => nomatch h

theorem gated_of_refusedInTest (h : i.refusedInTest = true) : i.gated = true := by
  cases i with
  | radioSetChannel _ | radioTransmit _ | radioEnableRx _ | radioReceive _ | radioFlush | radioRxAckGetLast => rfl
  | _ => nomatch h

/-- A closed gate ends the command at line 1 with its answer (R56). -/
theorem gated_run_quiet_of_closed (hq : s.env.sched = []) (hgate : radioGate s.radio ≠ .ok) (op : Byte)
    (allowsTest : Bool) (onClosed : M Unit) (body : M Status) :
    (gated op allowsTest onClosed body).run s =
      (onClosed >>= fun _ => pure (radioGate s.radio)).run (s.withHostPos (.line op 1)) := by
  rw [gated, atLine_bind_run_quiet hq, run_bind_ok (run_get_ok _), State.withHostPos_radio, if_pos hgate]

/-- Behind an open gate test mode refuses at line 2 a command that it does not allow (R57). -/
theorem gated_run_quiet_of_test (hq : s.env.sched = []) (hgate : radioGate s.radio = .ok)
    (htest : s.radio.freqTest = true) (op : Byte) (onClosed : M Unit) (body : M Status) :
    (gated op false onClosed body).run s = .error (.refuse .testMode) (s.withHostPos (.line op 2)) := by
  rw [gated, atLine_bind_run_quiet hq, run_bind_ok (run_get_ok _), State.withHostPos_radio,
    if_neg (not_not_intro hgate), if_neg Bool.false_ne_true, atLine_bind_run_quiet (by exact hq),
    run_bind_ok (run_get_ok _), State.withHostPos_radio, State.withHostPos_radio, if_pos htest, refuse_run,
    State.withHostPos_withHostPos]

/-- A gated command whose gate is closed (R56). -/
theorem exec_of_closed_gate (hi : i.gated = true) (hq : s.Quiet) (hgate : radioGate s.radio ≠ .ok) :
    exec i s = .next ((s.onRes (closedResults i)).returned i.opcode (radioGate s.radio)) := by
  obtain ⟨onClosed, body, hclosed, hexec⟩ := exec_runs_gated hi
  have hrun := gated_run_quiet_of_closed (s := s.withHostPos (.line i.opcode 1)) hq hgate i.opcode
    (!i.refusedInTest) onClosed body
  rw [run_bind_ok (hclosed _), run_pure_ok] at hrun
  rw [hexec, runCommand_returned hrun, State.withHostPos_withHostPos, State.withHostPos_onRes,
    State.withHostPos_returned, State.withHostPos_radio]

/-- A command that test mode refuses (R57). -/
theorem exec_of_test_mode (hi : i.refusedInTest = true) (hq : s.Quiet) (hgate : radioGate s.radio = .ok)
    (htest : s.radio.freqTest = true) : exec i s = .next (s.refusedWith .testMode) := by
  obtain ⟨onClosed, body, -, hexec⟩ := exec_runs_gated (gated_of_refusedInTest hi)
  have hrun := gated_run_quiet_of_test (s := s.withHostPos (.line i.opcode 1)) hq hgate htest i.opcode onClosed body
  rw [hexec, hi, Bool.not_true, runCommand_refused hrun, State.withHostPos_refusedWith,
    State.withHostPos_refusedWith]

/-! ### The refusals a piece of a command can answer -/

/-- The end of a run from `s` whose refusal, if it has one, satisfies `P`; any other end leaves the refusal mark. -/
def RefusesOnlyEnd (P : Refusal → Prop) (s : State) : EStateM.Result Stop State α → Prop
  | .ok _ t => t.refuseMark = s.refuseMark
  | .error (.refuse x) _ => P x
  | .error (.fault _) t => t.refuseMark = s.refuseMark
  | .error (.hold _) t => t.refuseMark = s.refuseMark

/-- Every refusal that a run of `m` answers satisfies `P`, whatever the schedule puts between its lines. -/
def RefusesOnly (P : Refusal → Prop) (m : M α) : Prop := ∀ s, RefusesOnlyEnd P s (m.run s)

theorem RefusesOnlyEnd.after {s t : State} (h : t.refuseMark = s.refuseMark) {r : EStateM.Result Stop State α}
    (hr : RefusesOnlyEnd P t r) : RefusesOnlyEnd P s r := by
  match r with
  | .ok _ _ => exact hr.trans h
  | .error (.refuse _) _ => exact hr
  | .error (.fault _) _ => exact hr.trans h
  | .error (.hold _) _ => exact hr.trans h

namespace RefusesOnly

theorem bind {m : M α} {f : α → M β} (hm : RefusesOnly P m) (hf : ∀ a, RefusesOnly P (f a)) :
    RefusesOnly P (m >>= f) := by
  intro s
  have h := hm s
  rw [EStateM.run_bind]
  match m.run s, h with
  | .ok a t, h => exact (hf a t).after h
  | .error (.refuse _) _, h => exact h
  | .error (.fault _) _, h => exact h
  | .error (.hold _) _, h => exact h

theorem seq {m : M α} {k : M β} (hm : RefusesOnly P m) (hk : RefusesOnly P k) : RefusesOnly P (m >>= fun _ => k) :=
  hm.bind fun _ => hk

theorem pure (a : α) : RefusesOnly P (Pure.pure a : M α) := fun _ => rfl

theorem get_bind {f : State → M β} (h : ∀ s, RefusesOnly P (f s)) : RefusesOnly P (get >>= f) := fun s => h s s

theorem ite {p : Prop} [Decidable p] {m n : M α} (hm : RefusesOnly P m) (hn : RefusesOnly P n) :
    RefusesOnly P (if p then m else n) := by
  split
  · exact hm
  · exact hn

theorem raise (f : Fault) : RefusesOnly P (Machine.raise f : M α) := fun _ => rfl

theorem refuse {x : Refusal} (h : P x) : RefusesOnly P (Machine.refuse x : M α) := fun _ => h

/-- An update of any part of the state but the refusal mark. -/
theorem write {f : State → State} (h : ∀ s, (f s).refuseMark = s.refuseMark := by exact fun _ => rfl) :
    RefusesOnly P (modify f) := h

/-- Such an update, then the rest. -/
theorem update {f : State → State} {k : M β} (hk : RefusesOnly P k)
    (h : ∀ s, (f s).refuseMark = s.refuseMark := by exact fun _ => rfl) : RefusesOnly P (modify f >>= fun _ => k) :=
  (write h).seq hk

theorem atomic {m : M α} (hm : RefusesOnly P m) : RefusesOnly P (Machine.atomic m) :=
  .get_bind fun _ => .update <| hm.bind fun _ => .update <| .pure _

theorem forEach {f : α → M Unit} (h : ∀ a, RefusesOnly P (f a)) (as : List α) :
    RefusesOnly P (Machine.forEach f as) := by
  induction as with
  | nil => exact .pure ()
  | cons a as ih => exact (h a).seq ih

end RefusesOnly

theorem refusesOnly_readReg (no : Nat) (r : Option α) : RefusesOnly P (readReg no r) := by
  cases r with
  | none => exact .raise _
  | some a => exact .pure a

theorem refusesOnly_ringRead (r : Fin 3) (o : Nat) : RefusesOnly P (ringRead r o) :=
  .get_bind fun s => .ite (.raise _) <| by
    split
    · exact .pure _
    · exact .raise _

theorem refusesOnly_freeAnswer (free : Nat → α) : RefusesOnly P (freeAnswer free) :=
  .get_bind fun _ => .update <| .pure _

theorem refusesOnly_drawId : RefusesOnly P drawId :=
  .get_bind fun s => by
    split
    · exact .update <| .pure _
    · exact refusesOnly_freeAnswer _

theorem refusesOnly_drawKeep : RefusesOnly P drawKeep :=
  .get_bind fun s => by
    split
    · exact .update <| .pure _
    · exact refusesOnly_freeAnswer _

theorem refusesOnly_busReadId : RefusesOnly P busReadId :=
  .get_bind fun _ => .bind refusesOnly_drawId fun _ => .update <| .pure _

theorem refusesOnly_busWrite (a v : Byte) : RefusesOnly P (busWrite a v) := .update .write

/-! ### The agents' steps refuse nothing -/

theorem refusesOnly_rxStart {gap : M Unit} (hgap : RefusesOnly P gap) : RefusesOnly P (rxStart gap) :=
  .atomic <| hgap.seq <| .get_bind fun _ => .ite
    (.bind (refusesOnly_readReg _ _) fun _ => .ite
      (.update <| hgap.seq <| .get_bind fun _ => .bind (refusesOnly_readReg _ _) fun _ =>
        .update <| hgap.seq <| .update <| hgap.seq .write)
      (.pure _))
    (.pure _)

theorem refusesOnly_frameArrival (f : List Byte) : RefusesOnly P (frameArrival f) :=
  .get_bind fun _ => .ite
    (.bind (refusesOnly_readReg _ _) fun _ => .update <| .update <| .update .write)
    (.pure _)

theorem refusesOnly_txDoneStep : RefusesOnly P txDoneStep := .get_bind fun _ => .ite (.update .write) (.pure _)

theorem refusesOnly_frameValid (r : Fin 3) : RefusesOnly P (frameValid r) :=
  .get_bind fun _ => .bind (refusesOnly_ringRead _ _) fun _ =>
    .ite (.bind (refusesOnly_ringRead _ _) fun _ => .pure _) (.pure _)

theorem refusesOnly_isrStep : RefusesOnly P isrStep :=
  have start : RefusesOnly P (rxStart (pure ())) := refusesOnly_rxStart (.pure ())
  .get_bind fun _ => .ite
    (.atomic <| .update <| .update <| .bind (refusesOnly_readReg _ _) fun _ =>
      .bind (refusesOnly_frameValid _) fun _ => .update <| .ite
        (.update <| .bind (refusesOnly_readReg _ _) fun _ => .seq (.ite .write (.raise _)) start)
        start)
    (.pure _)

theorem refusesOnly_spiStep : RefusesOnly P spiStep :=
  .get_bind fun _ => .ite
    (.ite (.raise _) <| .bind (refusesOnly_readReg _ _) fun _ => .update .write)
    (.pure _)

theorem refusesOnly_takeMove (m : Move) : RefusesOnly P (takeMove m) := by
  cases m with
  | frameArrival f => exact refusesOnly_frameArrival f
  | txDone => exact refusesOnly_txDoneStep
  | isr => exact refusesOnly_isrStep
  | spiStep => exact refusesOnly_spiStep

theorem refusesOnly_tick : RefusesOnly P tick :=
  .get_bind fun s => by
    split
    · exact .pure ()
    · exact .update <| .forEach refusesOnly_takeMove _

/-- A point between two lines, then the rest. -/
theorem RefusesOnly.point {k : M β} (hk : RefusesOnly P k) : RefusesOnly P (tick >>= fun _ => k) :=
  refusesOnly_tick.seq hk

/-- A numbered line of a command, then the rest. -/
theorem RefusesOnly.line {op : Byte} {n : Nat} {k : M β} (hk : RefusesOnly P k) :
    RefusesOnly P (atLine op n >>= fun _ => k) :=
  .seq (.update refusesOnly_tick) hk

/-! ### The commands that test mode allows -/

theorem refusesOnly_rxStartIfNeeded : RefusesOnly P rxStartIfNeeded := refusesOnly_rxStart refusesOnly_tick

theorem refusesOnly_rxStopHw (keep : Bool) : RefusesOnly P (rxStopHw keep) :=
  .atomic <| .point <| .update <| .point <| .update <| .point <| .update <| .point <|
    .ite (.bind refusesOnly_drawKeep fun _ => .write) .write

/-- `ApplyTable(T)` refuses a table without its sentinel (R2, R58). -/
theorem applyTable_refusesOnly (t : List Byte) : RefusesOnly (· = .badConfig) (applyTable t) :=
  .get_bind fun s => by
    split
    · exact .refuse rfl
    · exact .atomic <| .forEach (fun _ => .point <| refusesOnly_busWrite _ _) _

/-- `SetPaHw(dBm)` refuses a code table without the entry (R2, R59). -/
theorem setPaHw_refusesOnly (dBm : Int) : RefusesOnly (· = .badConfig) (setPaHw dBm) :=
  .get_bind fun s => by
    split
    · exact .refuse rfl
    · exact .point <| (refusesOnly_busWrite _ _).seq <| .point .write

theorem radioInit_refusesOnly : RefusesOnly (· = .badConfig) radioInit :=
  .get_bind fun _ => .line <| .seq (.atomic <| .update .write) <| .line <| .update <| .line <| .update <|
    .line <| .bind refusesOnly_busReadId fun _ => .line <| .ite
      (.line <| .update <| .line <| .pure _)
      (.line <| .update <| .line <| .update <| .point <| (applyTable_refusesOnly _).seq <|
        .line <| (setPaHw_refusesOnly _).seq <| .line <| .seq (.atomic .write) <|
        .line <| .update <| .update <| .line <| .update <| .line <| .pure _)

/-- A gated command that test mode allows refuses what its own lines refuse (R57). -/
theorem RefusesOnly.gated {op : Byte} {body : M Status} (hb : RefusesOnly P body) :
    RefusesOnly P (gated op true (Pure.pure ()) body) :=
  .line <| .get_bind fun _ => .ite (.pure _) (by rwa [if_pos rfl])

theorem radioSetTxPower_refusesOnly (dBm : Byte) : RefusesOnly (· = .badConfig) (radioSetTxPower dBm) :=
  .gated <| .line <| (setPaHw_refusesOnly _).seq <| .line <| .pure _

theorem enterFreqTest_refusesOnly : RefusesOnly (· = .badConfig) enterFreqTest :=
  .get_bind fun _ => .line <| (refusesOnly_rxStopHw _).seq <| .line <| .update <| .point <| applyTable_refusesOnly _

theorem leaveFreqTest_refusesOnly : RefusesOnly (· = .badConfig) leaveFreqTest :=
  .line <| .get_bind fun s => .bind (refusesOnly_readReg _ _) fun _ => .update <| .point <|
    (applyTable_refusesOnly _).seq <| .line <| by
      split
      · exact (refusesOnly_busWrite _ _).seq <| .line refusesOnly_rxStartIfNeeded
      · exact .line refusesOnly_rxStartIfNeeded

theorem radioSetFreqTest_refusesOnly (on : Bool) : RefusesOnly (· = .badConfig) (radioSetFreqTest on) :=
  have last : RefusesOnly (· = .badConfig) (do atLine 0x09#8 9; pure Status.ok) := .line <| .pure _
  .gated <| .line <| .get_bind fun _ => .ite
    (enterFreqTest_refusesOnly.seq last)
    (.line <| .get_bind fun _ => .ite (leaveFreqTest_refusesOnly.seq last) last)

theorem platformSetRadioEnabled_refusesOnly (on : Bool) : RefusesOnly P (platformSetRadioEnabled on) :=
  .line <| .update <| .line <| .pure _

/-- A radio command that test mode allows is a run of lines that refuse nothing but a bad table. -/
theorem exec_refusesOnly_badConfig (hradio : i.ofRadio = true) (htest : i.refusedInTest = false) :
    ∃ body, RefusesOnly (· = .badConfig) body ∧ ∀ s, exec i s = .next (runCommand i.opcode body s) := by
  cases i with
  | radioInit => exact ⟨_, radioInit_refusesOnly, fun _ => rfl⟩
  | radioSetTxPower dBm => exact ⟨_, radioSetTxPower_refusesOnly dBm, fun _ => rfl⟩
  | radioSetFreqTest on => exact ⟨_, radioSetFreqTest_refusesOnly on, fun _ => rfl⟩
  | platformSetRadioEnabled on => exact ⟨_, platformSetRadioEnabled_refusesOnly on, fun _ => rfl⟩
  | radioSetChannel _ | radioTransmit _ | radioEnableRx _ | radioReceive _ | radioFlush | radioRxAckGetLast =>
    nomatch htest
  | _ => nomatch hradio

/-- The refusal mark after a command: as it was, or a refusal that its lines answer (R107). -/
theorem runCommand_refuseMark {op : Byte} {body : M Status} (h : RefusesOnly P body) (s : State) :
    (runCommand op body s).refuseMark = s.refuseMark ∨ ∃ x, P x ∧ (runCommand op body s).refuseMark = some x := by
  have hrun := h (s.withHostPos (.line op 1))
  rw [runCommand, command_run]
  match body.run (s.withHostPos (.line op 1)), hrun with
  | .ok _ _, hrun => exact .inl hrun
  | .error (.refuse x) _, hrun => exact .inr ⟨x, hrun, rfl⟩
  | .error (.fault _) _, hrun => exact .inl hrun
  | .error (.hold _) _, hrun => exact .inl hrun

/-! ### TX done -/

/-- Everything the TX-done step can do (R71). -/
theorem takeMove_txDone_run (s : State) :
    (takeMove .txDone).run s =
      if s.arb.radioState = .tx ∧ s.arb.txDone = false then
        .ok () ((s.emit (.txFrame s.arb.txFrame)).onArb fun a => { a with txDone := true })
      else .ok () s := by
  rw [takeMove, txDoneStep, run_bind_ok (run_get_ok s), run_ite, run_bind_ok (emit_run _ _), setArb_run, run_pure_ok]

end Sys2Proof.Machine

namespace Sys2Proof

open Sys2Proof.Machine

/-- Settles O17: the status is the gate's own answer, and each command writes its result registers before it. -/
theorem closedGateEndsTheCommand : Obligations.ClosedGateEndsTheCommand := by
  intro i s st hi hq hst hne
  obtain rfl : st = radioGate s.radio := hst
  rw [exec_of_closed_gate hi hq hne]
  cases i <;> rfl

/-- Settles O18: the six commands are refused at line 2, and what the others can answer is a bad table. -/
theorem testModeRefusesSixCommands : Obligations.TestModeRefusesSixCommands := by
  refine ⟨fun i s => exec_of_test_mode, fun i s t hradio htest hmark hexec => ?_⟩
  obtain ⟨body, hbody, hrun⟩ := exec_refusesOnly_badConfig hradio htest
  obtain rfl : runCommand i.opcode body s = t := by simpa [hrun] using hexec
  rcases runCommand_refuseMark hbody s with hsame | ⟨x, rfl, hbad⟩
  · rwa [hsame]
  · rw [hbad]
    decide

/-- Settles O14: the run of the step is the closed form. -/
theorem txDoneSendsTheFrame : Obligations.TxDoneSendsTheFrame := takeMove_txDone_run

end Sys2Proof

/-! PROOF. The transforms of the status bytes (R72, R73). What each does to the bits is read once on integers: the mask
0x7F is the remainder by 128, the arithmetic shift a floor division, the cut to eight bits the balanced remainder by 256. -/

namespace Sys2Proof.Machine

/-- The link quality looks only at the byte's remainder by 128 (R72). -/
theorem lqi_eq (b : Byte) :
    lqi b = if 127 ≤ 148 - b.toNat % 128 then 255#8 else BitVec.ofNat 8 (2 * (148 - b.toNat % 128)) := by
  have hmask : (b &&& 0x7F#8).toNat = b.toNat % 128 := Nat.and_two_pow_sub_one_eq_mod b.toNat 7
  rw [lqi, hmask]

/-- Below 127 the doubled value fits a byte (R72). -/
theorem lqi_toNat (b : Byte) :
    (lqi b).toNat = if 127 ≤ 148 - b.toNat % 128 then 255 else 2 * (148 - b.toNat % 128) := by
  rw [lqi_eq]
  split
  case isTrue => rfl
  case isFalse hlow =>
    rw [BitVec.toNat_ofNat, Nat.mod_eq_of_lt]
    omega

/-- The CRC flag does not affect the link quality (R72). -/
theorem lqi_xor_crcFlag (b : Byte) : lqi (b ^^^ 0x80#8) = lqi b := by
  have hlow : (b ^^^ 0x80#8).toNat % 128 = b.toNat % 128 := by
    rw [BitVec.toNat_xor]
    exact (Nat.xor_mod_two_pow (n := 7)).trans (Nat.xor_zero _)
  rw [lqi_eq, lqi_eq, hlow]

/-- The signal strength lies within int16, so the subtraction does not wrap (R73). -/
theorem rssi16_toInt (b : Byte) : (rssi16 b).toInt = b.toInt / 2 - 77 := by
  have hlo : -128 ≤ b.toInt := b.le_toInt
  have hhi : b.toInt < 128 := b.toInt_lt
  calc (rssi16 b).toInt
      = ((b.signExtend 16).toInt >>> (1 : Nat) - 77).bmod (2 ^ 16) := by
        rw [rssi16, BitVec.toInt_sub, BitVec.toInt_sshiftRight]
        rfl
    _ = (b.toInt / 2 - 77).bmod (2 ^ 16) := by
        rw [BitVec.toInt_signExtend_of_le (by decide), Int.shiftRight_eq_div_pow]
        rfl
    _ = b.toInt / 2 - 77 := Int.bmod_eq_of_le (by omega) (by omega)

/-- Cutting a word to its low byte and extending the sign again is the balanced remainder by 256. -/
theorem signExtend_setWidth_toInt (x : U16) : ((x.setWidth 8).signExtend 16).toInt = x.toInt.bmod 256 := by
  rw [BitVec.toInt_signExtend_of_le (by decide), ← BitVec.signExtend_eq_setWidth_of_le x (by decide),
    BitVec.toInt_signExtend_eq_toInt_bmod_of_le x (by decide)]

end Sys2Proof.Machine

namespace Sys2Proof

open Sys2Proof.Machine

/-- Settles O31: each transform is its value on integers, and `P_RSSI_WRAP8` chooses between the word and its cut. -/
theorem statusByteTransforms : Obligations.StatusByteTransforms := by
  refine ⟨fun b => ⟨lqi_toNat b, lqi_xor_crcFlag b⟩, fun p b => ⟨fun hwide => ?wide, fun hwrap => ?wrapped⟩⟩
  case wide => rw [rssi, if_neg (by simp [hwide]), rssi16_toInt]
  case wrapped => rw [rssi, if_pos hwrap, signExtend_setWidth_toInt, rssi16_toInt]

end Sys2Proof

/-! PROOF. The decoder and the encoder are inverse (R40 to R44). Each operand format is read once: the field a format
reads is the field it writes, and it reads none exactly where a bit is set that the format marks `0`. The opcode map is
then walked once in each direction. -/

namespace Sys2Proof

/-! ### The operand formats -/

/-- A word is its high bits and its low bits. -/
theorem high_append_low {n m : Nat} (x : BitVec (n + m)) : x.extractLsb' m n ++ x.extractLsb' 0 m = x := by
  rw [BitVec.extractLsb'_append_extractLsb'_eq_extractLsb' (by omega), BitVec.extractLsb'_eq_self]

/-- The high bits are zero and the low bits are `b` in one word only. -/
theorem high_low_eq_iff {n m : Nat} (x : BitVec (n + m)) (b : BitVec m) :
    (x.extractLsb' m n = 0#n ∧ x.extractLsb' 0 m = b) ↔ x = 0#n ++ b := by
  constructor
  · rintro ⟨hhigh, hlow⟩
    rw [← high_append_low x, hhigh, hlow]
  · rintro rfl
    exact ⟨BitVec.extractLsb'_append_eq_left, BitVec.extractLsb'_append_eq_right⟩

/-- The high bits are zero exactly where the mask of the high bits finds none. -/
theorem high_eq_zero_iff {n m : Nat} (x : BitVec (n + m)) :
    x.extractLsb' m n = 0#n ↔ x &&& (BitVec.allOnes n ++ 0#m) = 0#(n + m) := by
  have hmask : x &&& (BitVec.allOnes n ++ 0#m) = x.extractLsb' m n ++ 0#m := by
    conv_lhs => rw [← high_append_low x]
    rw [BitVec.and_append, BitVec.and_allOnes, BitVec.and_zero]
  rw [hmask]
  constructor
  · intro hhigh
    rw [hhigh, BitVec.zero_append_zero]
  · intro hzero
    rw [← BitVec.extractLsb'_append_eq_left (a := x.extractLsb' m n) (b := 0#m), hzero, BitVec.extractLsb'_zero]

theorem fieldN_eq_some {opnd : U24} {x : Unit} : fieldN opnd = some x ↔ opnd = 0#24 := by
  simp [fieldN]

theorem fieldB8_eq_some {opnd : U24} {b : Byte} : fieldB8 opnd = some b ↔ opnd = encodeB8 b := by
  rw [fieldB8, Option.ite_none_right_eq_some, Option.some.injEq]
  exact high_low_eq_iff (n := 16) (m := 8) opnd b

theorem fieldA16_eq_some {opnd : U24} {a : U16} : fieldA16 opnd = some a ↔ opnd = encodeA16 a := by
  rw [fieldA16, Option.ite_none_right_eq_some, Option.some.injEq]
  exact high_low_eq_iff (n := 8) (m := 16) opnd a

/-- The lowest bit as a word of one bit. -/
theorem ofBool_low_bit (opnd : U24) : BitVec.ofBool (opnd.getLsbD 0) = opnd.extractLsb' 0 1 := by
  ext i hi
  obtain rfl : i = 0 := by omega
  simp

theorem fieldB1_eq_some {opnd : U24} {f : Bool} : fieldB1 opnd = some f ↔ opnd = encodeB1 f := by
  have hword : encodeB1 f = 0#23 ++ BitVec.ofBool f := by cases f <;> rfl
  have hbit : opnd.getLsbD 0 = f ↔ opnd.extractLsb' 0 1 = BitVec.ofBool f := by
    rw [← ofBool_low_bit]
    exact ⟨congrArg _, fun h => by simpa using congrArg (·.getLsbD 0) h⟩
  rw [fieldB1, Option.ite_none_right_eq_some, Option.some.injEq, hword, hbit]
  exact high_low_eq_iff (n := 23) (m := 1) opnd (BitVec.ofBool f)

/-- A format whose field is read under a mask refuses exactly the words with a bit under it. -/
theorem fieldN_eq_none {opnd : U24} : fieldN opnd = none ↔ opnd &&& 0xFFFFFF#24 ≠ 0#24 := by
  rw [show opnd &&& 0xFFFFFF#24 = opnd from BitVec.and_allOnes]
  simp [fieldN]

theorem fieldB1_eq_none {opnd : U24} : fieldB1 opnd = none ↔ opnd &&& 0xFFFFFE#24 ≠ 0#24 := by
  rw [fieldB1, ite_eq_right_iff, Ne, ← show _ ↔ opnd &&& 0xFFFFFE#24 = 0#24 from high_eq_zero_iff (n := 23) (m := 1) opnd]
  simp

theorem fieldB8_eq_none {opnd : U24} : fieldB8 opnd = none ↔ opnd &&& 0xFFFF00#24 ≠ 0#24 := by
  rw [fieldB8, ite_eq_right_iff, Ne, ← show _ ↔ opnd &&& 0xFFFF00#24 = 0#24 from high_eq_zero_iff (n := 16) (m := 8) opnd]
  simp

theorem fieldA16_eq_none {opnd : U24} : fieldA16 opnd = none ↔ opnd &&& 0xFF0000#24 ≠ 0#24 := by
  rw [fieldA16, ite_eq_right_iff, Ne,
    ← show _ ↔ opnd &&& 0xFF0000#24 = 0#24 from high_eq_zero_iff (n := 8) (m := 16) opnd]
  simp

/-- Format W12 is its two operands (R41). -/
theorem encodeW12_fields (opnd : U24) : encodeW12 (fieldStart opnd) (fieldCount opnd) = opnd :=
  high_append_low (n := 12) (m := 12) opnd

theorem fieldStart_encodeW12 (s n : BitVec 12) : fieldStart (encodeW12 s n) = s := BitVec.extractLsb'_append_eq_left

theorem fieldCount_encodeW12 (s n : BitVec 12) : fieldCount (encodeW12 s n) = n := BitVec.extractLsb'_append_eq_right

/-! ### The opcode map -/

variable {α : Type} {w : Word} {opnd : U24} {i : Instr}

theorem withField_eq_ok {field : Option α} {mk : α → Instr} :
    withField w field mk = .ok i ↔ ∃ x, field = some x ∧ mk x = i := by
  cases field <;> simp [withField]

theorem decodeSendTable_eq_ok {field : Option Byte} :
    decodeSendTable w field = .ok i ↔ ∃ id, field = some id ∧ tableIdOk id = true ∧ .epdSendTable id = i := by
  cases field with
  | none => simp [decodeSendTable]
  | some id => by_cases h : tableIdOk id = true <;> simp [decodeSendTable, h]

/-- The opcode map takes a well-formed command's two fields back to it (R43). -/
theorem decodeFields_opcode_operand (w : Word) (hwf : i.wellFormed = true) :
    decodeFields w i.opcode i.operand = .ok i := by
  cases i with
  | epdSendTable id => exact decodeSendTable_eq_ok.2 ⟨id, fieldB8_eq_some.2 rfl, hwf, rfl⟩
  | clientDrawImage addr => rfl
  | clientSetWindowX s n =>
    exact congrArg Except.ok (congrArg₂ Instr.clientSetWindowX (fieldStart_encodeW12 s n) (fieldCount_encodeW12 s n))
  | clientSetWindowY s n =>
    exact congrArg Except.ok (congrArg₂ Instr.clientSetWindowY (fieldStart_encodeW12 s n) (fieldCount_encodeW12 s n))
  | radioEnableRx on | radioSetFreqTest on | platformSetRadioEnabled on | epdStartTransfer on =>
    exact withField_eq_ok.2 ⟨on, fieldB1_eq_some.2 rfl, rfl⟩
  | radioSetChannel b | radioSetTxPower b | epdSendByte b | clientDrawScreen b | clientWriteChar b =>
    exact withField_eq_ok.2 ⟨b, fieldB8_eq_some.2 rfl, rfl⟩
  | radioTransmit a | radioReceive a | clientLoadRawBitmap a | clientPrintBegin a | clientPrintBarcode a =>
    exact withField_eq_ok.2 ⟨a, fieldA16_eq_some.2 rfl, rfl⟩
  | radioInit | radioFlush | radioRxAckGetLast | epdPowerUpIfNeeded | epdShutdown | epdRefreshAndSleep
  | clientPrintEnd =>
    rfl

/-- The word with the fields `op` and `opnd` is the command's, which is well formed. -/
def IsWordOf (op : Byte) (opnd : U24) (i : Instr) : Prop := i.opcode = op ∧ i.operand = opnd ∧ i.wellFormed = true

/-- One row of the opcode map (R43). -/
theorem of_row {op op' : Byte} {row rest : Except DecodeError Instr} (hrow : row = .ok i → IsWordOf op' opnd i)
    (hrest : rest = .ok i → IsWordOf op opnd i) (h : (if op = op' then row else rest) = .ok i) : IsWordOf op opnd i := by
  split at h
  · next hop => exact hop ▸ hrow h
  · exact hrest h

/-- What the opcode map answers is a well-formed command with the two fields (R43, R44). -/
theorem isWordOf_of_decodeFields {op : Byte} : decodeFields w op opnd = .ok i → IsWordOf op opnd i := by
  have hN {op' : Byte} {mk : Unit → Instr} (hmk : IsWordOf op' 0#24 (mk ())) (h : withField w (fieldN opnd) mk = .ok i) :
      IsWordOf op' opnd i := by
    obtain ⟨_, hf, rfl⟩ := withField_eq_ok.1 h
    exact fieldN_eq_some.1 hf ▸ hmk
  have hB1 {op' : Byte} {mk : Bool → Instr} (hmk : ∀ f, IsWordOf op' (encodeB1 f) (mk f))
      (h : withField w (fieldB1 opnd) mk = .ok i) : IsWordOf op' opnd i := by
    obtain ⟨f, hf, rfl⟩ := withField_eq_ok.1 h
    exact fieldB1_eq_some.1 hf ▸ hmk f
  have hB8 {op' : Byte} {mk : Byte → Instr} (hmk : ∀ b, IsWordOf op' (encodeB8 b) (mk b))
      (h : withField w (fieldB8 opnd) mk = .ok i) : IsWordOf op' opnd i := by
    obtain ⟨b, hb, rfl⟩ := withField_eq_ok.1 h
    exact fieldB8_eq_some.1 hb ▸ hmk b
  have hA16 {op' : Byte} {mk : U16 → Instr} (hmk : ∀ a, IsWordOf op' (encodeA16 a) (mk a))
      (h : withField w (fieldA16 opnd) mk = .ok i) : IsWordOf op' opnd i := by
    obtain ⟨a, ha, rfl⟩ := withField_eq_ok.1 h
    exact fieldA16_eq_some.1 ha ▸ hmk a
  have hTable (h : decodeSendTable w (fieldB8 opnd) = .ok i) : IsWordOf 0x10#8 opnd i := by
    obtain ⟨id, hid, hok, rfl⟩ := decodeSendTable_eq_ok.1 h
    exact fieldB8_eq_some.1 hid ▸ ⟨rfl, rfl, hok⟩
  have hW12 {op' : Byte} {mk : BitVec 12 → BitVec 12 → Instr} (hmk : ∀ s n, IsWordOf op' (encodeW12 s n) (mk s n))
      (h : Except.ok (mk (fieldStart opnd) (fieldCount opnd)) = Except.ok (ε := DecodeError) i) :
      IsWordOf op' opnd i := by
    have := hmk (fieldStart opnd) (fieldCount opnd)
    rw [encodeW12_fields] at this
    exact Except.ok.inj h ▸ this
  have hAddr (h : Except.ok (Instr.clientDrawImage opnd) = Except.ok (ε := DecodeError) i) : IsWordOf 0x20#8 opnd i :=
    Except.ok.inj h ▸ ⟨rfl, rfl, rfl⟩
  exact of_row (hN ⟨rfl, rfl, rfl⟩) <| of_row (hB8 fun _ => ⟨rfl, rfl, rfl⟩) <| of_row (hB8 fun _ => ⟨rfl, rfl, rfl⟩) <|
    of_row (hA16 fun _ => ⟨rfl, rfl, rfl⟩) <| of_row (hB1 fun _ => ⟨rfl, rfl, rfl⟩) <|
    of_row (hA16 fun _ => ⟨rfl, rfl, rfl⟩) <| of_row (hN ⟨rfl, rfl, rfl⟩) <| of_row (hN ⟨rfl, rfl, rfl⟩) <|
    of_row (hB1 fun _ => ⟨rfl, rfl, rfl⟩) <| of_row (hB1 fun _ => ⟨rfl, rfl, rfl⟩) <| of_row hTable <|
    of_row (hN ⟨rfl, rfl, rfl⟩) <| of_row (hN ⟨rfl, rfl, rfl⟩) <| of_row (hB1 fun _ => ⟨rfl, rfl, rfl⟩) <|
    of_row (hB8 fun _ => ⟨rfl, rfl, rfl⟩) <| of_row (hN ⟨rfl, rfl, rfl⟩) <| of_row hAddr <|
    of_row (hB8 fun _ => ⟨rfl, rfl, rfl⟩) <| of_row (hW12 fun _ _ => ⟨rfl, rfl, rfl⟩) <|
    of_row (hW12 fun _ _ => ⟨rfl, rfl, rfl⟩) <| of_row (hA16 fun _ => ⟨rfl, rfl, rfl⟩) <|
    of_row (hA16 fun _ => ⟨rfl, rfl, rfl⟩) <| of_row (hB8 fun _ => ⟨rfl, rfl, rfl⟩) <|
    of_row (hN ⟨rfl, rfl, rfl⟩) <| of_row (hA16 fun _ => ⟨rfl, rfl, rfl⟩) nofun

/-- A word is its two fields (R40). -/
theorem mkWord_fields (w : Word) : mkWord (opcodeOf w) (operandOf w) = w := high_append_low (n := 8) (m := 24) w

/-! ### The refusals -/

/-- What the decoder answers on a word whose opcode has the zero bits `z` (R44, R108). -/
def DecodesOrRefuses (w : Word) (op : Byte) (opnd z : U24) (r : Except DecodeError Instr) : Prop :=
  if opnd &&& z ≠ 0#24 then r = .error (.reservedBits w)
  else if op = 0x10#8 ∧ 3 < opnd.toNat then r = .error (.reservedOperand w)
  else ∃ i, r = .ok i

/-- A format refuses a word for its reserved bits and no other. -/
theorem withField_decodesOrRefuses {op : Byte} {z : U24} {field : Option α} {mk : α → Instr} (hop : op ≠ 0x10#8)
    (h : field = none ↔ opnd &&& z ≠ 0#24) : DecodesOrRefuses w op opnd z (withField w field mk) := by
  rw [DecodesOrRefuses]
  cases field with
  | none => rw [if_pos (h.1 rfl)]; rfl
  | some x => rw [if_neg (by rw [← h]; simp), if_neg (by simp [hop])]; exact ⟨_, rfl⟩

/-- EPD_SEND_TABLE refuses the reserved bits, and then an id above 3 (R44, R108). -/
theorem decodeSendTable_decodesOrRefuses :
    DecodesOrRefuses w 0x10#8 opnd 0xFFFF00#24 (decodeSendTable w (fieldB8 opnd)) := by
  rw [DecodesOrRefuses]
  cases hf : fieldB8 opnd with
  | none => rw [if_pos (fieldB8_eq_none.1 hf)]; rfl
  | some id =>
    have hid : opnd.toNat = id.toNat := by rw [fieldB8_eq_some.1 hf, encodeB8, BitVec.toNat_append]; simp
    rw [if_neg (by rw [← fieldB8_eq_none, hf]; simp), hid, decodeSendTable, tableIdOk]
    by_cases h : id.toNat ≤ 3
    · simp [h, Nat.not_lt.2 h]
    · simp [h, Nat.lt_of_not_le h]

/-- A format without zero bits refuses nothing. -/
theorem ok_decodesOrRefuses {op : Byte} (hop : op ≠ 0x10#8) : DecodesOrRefuses w op opnd 0#24 (.ok i) := by
  rw [DecodesOrRefuses, BitVec.and_zero, if_neg (by simp), if_neg (by simp [hop])]
  exact ⟨i, rfl⟩

/-- An opcode that the map does not list is refused first; another has its format's zero bits (R44). -/
def AnswersAsListed (w : Word) (op : Byte) (opnd : U24) (r : Except DecodeError Instr) : Prop :=
  match zeroBits op with
  | none => r = .error (.reservedOpcode w)
  | some z => DecodesOrRefuses w op opnd z r

/-- One row of the opcode map (R43). -/
theorem answersAsListed_row {op op' : Byte} {z : U24} {row rest : Except DecodeError Instr} (hz : zeroBits op' = some z)
    (hrow : DecodesOrRefuses w op' opnd z row) (hrest : op ≠ op' → AnswersAsListed w op opnd rest) :
    AnswersAsListed w op opnd (if op = op' then row else rest) := by
  split
  · next hop => rwa [hop, AnswersAsListed, hz]
  · next hop => exact hrest hop

/-- The opcode map's answers, row by row (R43, R44). -/
theorem decodeFields_answersAsListed (w : Word) (op : Byte) (opnd : U24) :
    AnswersAsListed w op opnd (decodeFields w op opnd) := by
  have hN {op' : Byte} {mk : Unit → Instr} (hop : op' ≠ 0x10#8) :
      DecodesOrRefuses w op' opnd 0xFFFFFF#24 (withField w (fieldN opnd) mk) :=
    withField_decodesOrRefuses hop fieldN_eq_none
  have hB1 {op' : Byte} {mk : Bool → Instr} (hop : op' ≠ 0x10#8) :
      DecodesOrRefuses w op' opnd 0xFFFFFE#24 (withField w (fieldB1 opnd) mk) :=
    withField_decodesOrRefuses hop fieldB1_eq_none
  have hB8 {op' : Byte} {mk : Byte → Instr} (hop : op' ≠ 0x10#8) :
      DecodesOrRefuses w op' opnd 0xFFFF00#24 (withField w (fieldB8 opnd) mk) :=
    withField_decodesOrRefuses hop fieldB8_eq_none
  have hA16 {op' : Byte} {mk : U16 → Instr} (hop : op' ≠ 0x10#8) :
      DecodesOrRefuses w op' opnd 0xFF0000#24 (withField w (fieldA16 opnd) mk) :=
    withField_decodesOrRefuses hop fieldA16_eq_none
  have hFree {op' : Byte} {i : Instr} (hop : op' ≠ 0x10#8) : DecodesOrRefuses w op' opnd 0x000000#24 (.ok i) :=
    ok_decodesOrRefuses hop
  unfold decodeFields
  refine answersAsListed_row rfl (hN (by decide)) fun h01 => ?_
  refine answersAsListed_row rfl (hB8 (by decide)) fun h02 => ?_
  refine answersAsListed_row rfl (hB8 (by decide)) fun h03 => ?_
  refine answersAsListed_row rfl (hA16 (by decide)) fun h04 => ?_
  refine answersAsListed_row rfl (hB1 (by decide)) fun h05 => ?_
  refine answersAsListed_row rfl (hA16 (by decide)) fun h06 => ?_
  refine answersAsListed_row rfl (hN (by decide)) fun h07 => ?_
  refine answersAsListed_row rfl (hN (by decide)) fun h08 => ?_
  refine answersAsListed_row rfl (hB1 (by decide)) fun h09 => ?_
  refine answersAsListed_row rfl (hB1 (by decide)) fun h0A => ?_
  refine answersAsListed_row rfl decodeSendTable_decodesOrRefuses fun h10 => ?_
  refine answersAsListed_row rfl (hN (by decide)) fun h11 => ?_
  refine answersAsListed_row rfl (hN (by decide)) fun h12 => ?_
  refine answersAsListed_row rfl (hB1 (by decide)) fun h13 => ?_
  refine answersAsListed_row rfl (hB8 (by decide)) fun h14 => ?_
  refine answersAsListed_row rfl (hN (by decide)) fun h15 => ?_
  refine answersAsListed_row rfl (hFree (by decide)) fun h20 => ?_
  refine answersAsListed_row rfl (hB8 (by decide)) fun h21 => ?_
  refine answersAsListed_row rfl (hFree (by decide)) fun h22 => ?_
  refine answersAsListed_row rfl (hFree (by decide)) fun h23 => ?_
  refine answersAsListed_row rfl (hA16 (by decide)) fun h24 => ?_
  refine answersAsListed_row rfl (hA16 (by decide)) fun h25 => ?_
  refine answersAsListed_row rfl (hB8 (by decide)) fun h26 => ?_
  refine answersAsListed_row rfl (hN (by decide)) fun h27 => ?_
  refine answersAsListed_row rfl (hA16 (by decide)) fun h28 => ?_
  have hunlisted : zeroBits op = none := by
    rw [zeroBits]
    split
    case h_26 => rfl
    all_goals bv_omega
  rw [AnswersAsListed, hunlisted]

/-! ### The statements -/

/-- Settles O1: the word's fields are the command's opcode and operand, and the opcode map takes them back to it. -/
theorem decodeOfEncode : Obligations.DecodeOfEncode := by
  intro i hwf
  rw [decode, opcodeOf_encode, operandOf_encode, decodeFields_opcode_operand _ hwf]

/-- Settles O2: what the opcode map answers has the word's two fields, and they are the word. -/
theorem encodeOfDecode : Obligations.EncodeOfDecode := by
  intro w i h
  obtain ⟨hop, hopnd, hwf⟩ := isWordOf_of_decodeFields h
  exact ⟨hwf, by rw [encode, hop, hopnd, mkWord_fields], hop⟩

/-- Settles O3: the opcode map's answers, row by row. -/
theorem decodeRefusesExactly : Obligations.DecodeRefusesExactly := by
  intro w
  have h := decodeFields_answersAsListed w (opcodeOf w) (operandOf w)
  unfold AnswersAsListed at h
  split <;> simp_all [DecodesOrRefuses, decode]

/-- Settles O4: each word is evaluated. -/
theorem writtenWordsDecode : Obligations.WrittenWordsDecode := by
  unfold Obligations.WrittenWordsDecode
  decide

end Sys2Proof

/-! PROOF. The parameter checks (R1, R2), the two kinds of table (R47, R48) and the reset column. A table is read to its
end: the entries written one after the other and then the terminator are read back, whatever follows. The check of R2 that
a terminator stands there is the converse. -/

namespace Sys2Proof.Machine

/-! ### RF tables -/

variable {sentinel : Byte}

/-- An RF table is read pair by pair up to its sentinel (R47). -/
theorem rfEntries_of_pairs (es : List (Byte × Byte)) (rest : List Byte) (h : ∀ e ∈ es, e.1 ≠ sentinel) :
    rfEntries sentinel (es.flatMap (fun e => [e.1, e.2]) ++ sentinel :: rest) = some es := by
  induction es with
  | nil => cases rest <;> simp [rfEntries]
  | cons e es ih =>
    rw [List.forall_mem_cons] at h
    simp [rfEntries, h.1, ih h.2]

/-- An element at an even offset is the first, or stands at an even offset behind the first two. -/
theorem exists_getElem?_even {α : Type} {a v x : α} {t : List α} :
    (∃ k : Nat, (a :: v :: t)[2 * k]? = some x) ↔ a = x ∨ ∃ k : Nat, t[2 * k]? = some x := by
  constructor
  · rintro ⟨k | k, hk⟩
    · exact .inl (Option.some.inj hk)
    · exact .inr ⟨k, hk⟩
  · rintro (rfl | ⟨k, hk⟩)
    · exact ⟨0, rfl⟩
    · exact ⟨k + 1, hk⟩

/-- The sentinel stands at an even offset exactly where the table can be read (R47). -/
theorem rfEntries_isSome_iff (t : List Byte) :
    (rfEntries sentinel t).isSome = true ↔ ∃ k : Nat, t[2 * k]? = some sentinel := by
  induction t using rfEntries.induct (sentinel := sentinel) with
  | case1 => simp [rfEntries]
  | case2 => exact iff_of_true (by simp [rfEntries]) ⟨0, rfl⟩
  | case3 a h =>
    refine iff_of_false (by simp [rfEntries, h]) ?_
    rintro ⟨k | k, hk⟩
    · exact h (Option.some.inj hk)
    · exact nomatch hk
  | case4 v t => exact iff_of_true (by simp [rfEntries]) ⟨0, rfl⟩
  | case5 a v t h ih => simp [rfEntries, h, ih, exists_getElem?_even]

/-! ### Panel tables -/

variable {mode : CountMode}

/-- Every entry has a count of at least 1 and the data bytes that its count gives (R48). -/
def EntriesCounted (mode : CountMode) (es : List (Byte × Byte × List Byte)) : Prop :=
  ∀ e ∈ es, e.1 ≠ 0#8 ∧ e.2.2.length = dataBytes mode e.1.toNat

/-- A panel table: its entries, the zero count and what follows it (R48). -/
def tableOf (es : List (Byte × Byte × List Byte)) (rest : List Byte) : List Byte :=
  es.flatMap (fun e => e.1 :: e.2.1 :: e.2.2) ++ 0#8 :: rest

/-- Entries written one after the other are read back. -/
theorem panelEntriesUpTo_tableOf {es : List (Byte × Byte × List Byte)} (h : EntriesCounted mode es) (rest : List Byte)
    {fuel : Nat} (hfuel : es.length < fuel) : panelEntriesUpTo mode fuel (tableOf es rest) = some (es.map (·.2)) := by
  induction es generalizing fuel with
  | nil =>
    obtain ⟨fuel, rfl⟩ := Nat.exists_eq_succ_of_ne_zero (Nat.ne_of_gt hfuel)
    rfl
  | cons e es ih =>
    obtain ⟨fuel, rfl⟩ := Nat.exists_eq_succ_of_ne_zero (Nat.ne_of_gt (Nat.zero_lt_of_lt hfuel))
    obtain ⟨n, cmd, data⟩ := e
    obtain ⟨⟨hn, hdata⟩, hes⟩ := List.forall_mem_cons.1 h
    dsimp only at hn hdata
    have hlong : ¬(data ++ tableOf es rest).length < data.length := by
      rw [List.length_append]
      omega
    have hcons : tableOf ((n, cmd, data) :: es) rest = n :: cmd :: (data ++ tableOf es rest) := by simp [tableOf]
    rw [hcons, panelEntriesUpTo]
    simp only [hn, hlong, if_false, ← hdata, List.drop_left, List.take_left]
    rw [ih hes (Nat.lt_of_succ_lt_succ hfuel)]
    rfl

/-- A panel table is read entry by entry up to its zero count (R48). -/
theorem panelEntries_tableOf {es : List (Byte × Byte × List Byte)} (h : EntriesCounted mode es) (rest : List Byte) :
    panelEntries mode (tableOf es rest) = some (es.map (·.2)) := by
  have hlen : es.length ≤ (es.flatMap fun e => e.1 :: e.2.1 :: e.2.2).length := by
    induction es with
    | nil => exact le_rfl
    | cons e es ih =>
      have := ih (List.forall_mem_cons.1 h).2
      simp only [List.flatMap_cons, List.length_append, List.length_cons]
      omega
  refine panelEntriesUpTo_tableOf h rest ?_
  rw [tableOf, List.length_append]
  omega

/-- What is read of a panel table is its entries, and a zero count stands after them. -/
theorem exists_tableOf_of_isSome {fuel : Nat} {t : List Byte} (h : (panelEntriesUpTo mode fuel t).isSome = true) :
    ∃ es rest, EntriesCounted mode es ∧ t = tableOf es rest := by
  induction fuel generalizing t with
  | zero => exact nomatch h
  | succ fuel ih =>
    match t with
    | [] => exact nomatch h
    | [n] =>
      by_cases hn : n = 0#8
      · exact ⟨[], [], nofun, by rw [hn]; rfl⟩
      · simp [panelEntriesUpTo, hn] at h
    | n :: cmd :: more =>
      by_cases hn : n = 0#8
      · exact ⟨[], cmd :: more, nofun, by rw [hn]; rfl⟩
      · rw [panelEntriesUpTo] at h
        simp only [hn, if_false] at h
        split at h
        · exact nomatch h
        · next hlong =>
          rw [Option.isSome_map] at h
          obtain ⟨es, rest, hes, hmore⟩ := ih h
          refine ⟨(n, cmd, more.take (dataBytes mode n.toNat)) :: es, rest,
            List.forall_mem_cons.2 ⟨⟨hn, List.length_take_of_le (Nat.not_lt.1 hlong)⟩, hes⟩, ?_⟩
          have hcut : more = more.take (dataBytes mode n.toNat) ++ tableOf es rest := by
            rw [← hmore, List.take_append_drop]
          conv_lhs => rw [hcut]
          simp [tableOf]

/-- R2's check of a panel table is that it can be read. -/
theorem panelEntries_isSome_iff (p : Params) (t : List Byte) :
    (panelEntries p.epdCountMode t).isSome = true ↔ HoldsZeroCount p t := by
  constructor
  · exact exists_tableOf_of_isSome
  · rintro ⟨es, rest, hes, rfl⟩
    exact Option.isSome_of_eq_some (panelEntries_tableOf hes rest)

/-! ### The parameter record -/

theorem paramsInRange_iff (p : Params) : paramsInRange p = true ↔ InR1Ranges p := by
  cases h : p.txTimeout <;>
    simp only [paramsInRange, InR1Ranges, Bool.and_eq_true, h, decide_eq_true_eq, List.all_eq_true, and_assoc,
      reduceCtorEq, false_implies, implies_true, Option.some.injEq, forall_eq']

/-- The check of the record is R1's ranges and R2's checks. -/
theorem paramsOk_iff (p : Params) : paramsOk p = true ↔ InR1Ranges p ∧ MeetsR2 p := by
  simp only [paramsOk, MeetsR2, Bool.and_eq_true, paramsInRange_iff, decide_eq_true_eq, rfEntries_isSome_iff,
    panelEntries_isSome_iff, List.forall_mem_cons, List.not_mem_nil, false_implies, implies_true, and_true, HoldsSentinel,
    and_assoc]
  rfl

end Sys2Proof.Machine

namespace Sys2Proof

open Sys2Proof.Machine

/-- Settles O9: the start's check is R1's ranges and R2's checks. -/
theorem startChecksParameters : Obligations.StartChecksParameters := by
  rintro s ⟨hfault, hrefuse⟩ hnew
  have hstep : step s = .next (modelStart s) := by simp [step, hfault, hrefuse, nextTurn, hnew]
  refine ⟨fun h => ?_, fun h => ?_, paramsOk_iff s.cfg⟩
  · rw [hstep, modelStart, if_pos ((paramsOk_iff _).2 h)]
    rfl
  · rw [hstep, modelStart, if_neg fun hok => h ((paramsOk_iff _).1 hok)]
    rfl

/-- Settles O10: written entries are read back, in both count modes. -/
theorem tablesAreReadToTheirEnd : Obligations.TablesAreReadToTheirEnd := by
  refine ⟨fun _ => rfEntries_of_pairs, fun es rest h => ?_, fun es rest h => ?_⟩
  · have hes : EntriesCounted .cmdAndData (es.map fun e => (BitVec.ofNat 8 (e.2.length + 1), e)) := by
      rw [EntriesCounted, List.forall_mem_map]
      intro e he
      have := h e he
      exact ⟨by bv_omega, by simp [dataBytes]; omega⟩
    simpa [tableOf, List.flatMap_map, Function.comp_def] using panelEntries_tableOf hes rest
  · have hes : EntriesCounted .dataOnly (es.map fun e => (BitVec.ofNat 8 e.2.length, e)) := by
      rw [EntriesCounted, List.forall_mem_map]
      intro e he
      have := h e he
      exact ⟨by bv_omega, by simp [dataBytes]; omega⟩
    simpa [tableOf, List.flatMap_map, Function.comp_def] using panelEntries_tableOf hes rest

/-- Settles O11: the reset state's fields are the column's. -/
theorem resetLeavesResetColumn : Obligations.ResetLeavesResetColumn :=
  ⟨rfl, rfl, rfl, rfl, ⟨rfl, rfl, rfl⟩, rfl, rfl, rfl, rfl, rfl, fun _ => rfl, rfl, rfl, rfl, rfl, rfl, rfl,
    fun _ => ⟨rfl, rfl, rfl⟩, rfl, rfl, rfl, rfl⟩

/-- Settles O12: at reset the byte spaces are empty, the ranged registers UNSET, and the host idle. -/
theorem resetMeetsTheInvariants : Obligations.ResetMeetsTheInvariants where
  left := ⟨rfl, rfl, rfl, rfl, nofun, nofun, nofun, nofun⟩
  right := ⟨⟨nofun, nofun⟩, ⟨fun _ => ⟨rfl, rfl⟩, nofun⟩, fun _ => ⟨nofun, nofun, nofun⟩,
    ⟨nofun, nofun, fun _ => ⟨nofun, nofun, nofun⟩⟩⟩

end Sys2Proof

/-! PROOF. What a command keeps under every schedule. `Leads E P Q m` says of a piece `m` of a command that from a state
with `P` it goes on in one with `Q`, or stops as `E` allows; unlike `Keeps` it can say which stops there are. The parts of
the block that the agents, the radio half, the compositing primitives and the display half write are listed once, as the
updates that an invariant must allow, and each command is walked once over such a list. -/

namespace Sys2Proof.Machine

variable {α β : Type} {E : Stop → State → Prop} {P Q R I : State → Prop}

/-! ### Pieces of a command -/

/-- The end of a run: it goes on in a state with `Q`, or stops as `E` allows. -/
def EndsIn (E : Stop → State → Prop) (Q : State → Prop) : EStateM.Result Stop State α → Prop
  | .ok _ t => Q t
  | .error e t => E e t

/-- From a state with `P` every run of `m` goes on in a state with `Q`, or stops as `E` allows. -/
def Leads (E : Stop → State → Prop) (P Q : State → Prop) (m : M α) : Prop := ∀ s, P s → EndsIn E Q (m.run s)

namespace Leads

theorem bind {m : M α} {f : α → M β} (hm : Leads E P Q m) (hf : ∀ a, Leads E Q R (f a)) : Leads E P R (m >>= f) := by
  intro s hs
  have h := hm s hs
  rw [EStateM.run_bind]
  match m.run s, h with
  | .ok a t, h => exact hf a t h
  | .error _ _, h => exact h

theorem seq {m : M α} {k : M β} (hm : Leads E P Q m) (hk : Leads E Q R k) : Leads E P R (m >>= fun _ => k) :=
  hm.bind fun _ => hk

theorem pure (a : α) : Leads E P P (Pure.pure a : M α) := fun _ hs => hs

theorem get_bind {f : State → M β} (h : ∀ u, Leads E P Q (f u)) : Leads E P Q (get >>= f) := fun s hs => h s s hs

/-- What is read is the state the rest starts from. -/
theorem get_bind_eq {f : State → M β} (h : ∀ u, P u → Leads E (· = u) Q (f u)) : Leads E P Q (get >>= f) :=
  fun s hs => h s hs s rfl

theorem ite {p : Prop} [Decidable p] {m n : M α} (hm : p → Leads E P Q m) (hn : ¬p → Leads E P Q n) :
    Leads E P Q (if p then m else n) := by
  split
  · exact hm ‹_›
  · exact hn ‹_›

theorem weaken {m : M α} (h : Leads E P Q m) (hp : ∀ s, R s → P s) : Leads E R Q m := fun s hs => h s (hp s hs)

theorem strengthen {m : M α} (h : Leads E P Q m) (hq : ∀ s, Q s → R s) : Leads E P R m := by
  intro s hs
  have hend := h s hs
  match m.run s, hend with
  | .ok _ _, hend => exact hq _ hend
  | .error _ _, hend => exact hend

theorem modify {f : State → State} (h : ∀ s, P s → Q (f s)) : Leads E P Q (modify f) := h

theorem raise {f : Fault} (h : ∀ s, P s → E (.fault f) s) : Leads E P Q (Machine.raise f : M α) := h

theorem refuse {x : Refusal} (h : ∀ s, P s → E (.refuse x) s) : Leads E P Q (Machine.refuse x : M α) := h

theorem stayAt {p : HostPos} (h : ∀ s, P s → E (.hold p) s) : Leads E P Q (Machine.stayAt p : M α) := h

theorem forEach {f : α → M Unit} {as : List α} (h : ∀ a ∈ as, Leads E I I (f a)) :
    Leads E I I (Machine.forEach f as) := by
  induction as with
  | nil => exact .pure ()
  | cons a as ih =>
    obtain ⟨ha, has⟩ := List.forall_mem_cons.1 h
    exact ha.seq (ih has)

theorem forLine {head : M Unit} {f : α → M Unit} {as : List α} (hh : Leads E I I head) (h : ∀ a, Leads E I I (f a)) :
    Leads E I I (Machine.forLine head f as) :=
  (forEach fun a _ => hh.seq (h a)).seq hh

theorem readReg {no : Nat} {r : Option α} (h : ∀ s, P s → E (.fault (.unwritten .register no)) s) :
    Leads E P P (Machine.readReg no r) := by
  cases r with
  | none => exact .raise h
  | some a => exact .pure a

theorem atomic {m : M α} (hie : ∀ s b, I s → I (s.onIrq fun q => { q with ie := b })) (hm : Leads E I I m) :
    Leads E I I (Machine.atomic m) :=
  .get_bind fun u => .seq (.modify fun s => hie s false) <| hm.bind fun _ => .seq (.modify fun s => hie s u.irq.ie) <|
    .pure _

end Leads

/-! ### The agents' steps and the points between lines -/

/-- An invariant that allows an event, and a fault but that of a disconnected shift. -/
structure StepWrites (E : Stop → State → Prop) (I : State → Prop) : Prop where
  fault : ∀ s f, f ≠ .spiDisconnected → I s → E (.fault f) s
  emit : ∀ s e, I s → I (s.emit e)

namespace StepWrites

variable (h : StepWrites E I)
include h

theorem readReg (no : Nat) (r : Option α) : Leads E I I (readReg no r) := .readReg fun s => h.fault s _ nofun

theorem ringRead (r : Fin 3) (o : Nat) : Leads E I I (ringRead r o) :=
  .get_bind fun s => .ite (fun _ => .raise fun s => h.fault s _ nofun) fun _ => by
    split
    · exact .pure _
    · exact .raise fun s => h.fault s _ nofun

theorem frameValid (r : Fin 3) : Leads E I I (frameValid r) :=
  .get_bind fun _ => (h.ringRead _ _).bind fun _ =>
    .ite (fun _ => (h.ringRead _ _).bind fun _ => .pure _) fun _ => .pure _

theorem emitted (e : Event) : Leads E I I (Machine.emit e) := .modify fun s => h.emit s e

end StepWrites

/-- An invariant that allows what the agents write, a byte of the shifter only where one can leave. -/
structure AgentWrites (E : Stop → State → Prop) (I : State → Prop) : Prop extends StepWrites E I where
  irq : ∀ s f, I s → I (s.onIrq f)
  raised : ∀ s, I s → I (s.onRadio fun r => { r with irqRaisedRx := true })
  agentArb : ∀ s f, (∀ a, (f a).rxEnabled = a.rxEnabled ∧ (f a).txFrame = a.txFrame ∧ (f a).txMinBatt = a.txMinBatt) →
    I s → I (s.onArb f)
  agentRing : ∀ s f, (∀ r, (f r).cells = r.cells ∧ (f r).readIdx = r.readIdx) → I s → I (s.onRing f)
  frame : ∀ s w f, frameShape s.cfg f = true → I s →
    I (s.onRing fun r => { r with cells := r.cells.writeBytes (ringAddr w 0) f })
  byteOut : ∀ s, s.epd.spiBusy = true → s.epd.spiConnected = true → I s →
    I (s.onEpd fun d => { d with spiBusy := false })
  disconnected : ∀ s, s.epd.spiBusy = true → s.epd.spiConnected = false → I s → E (.fault .spiDisconnected) s

namespace AgentWrites

variable (h : AgentWrites E I)
include h

theorem setFreeCount (v : Int) : Leads E I I (setFreeCount v) :=
  .ite (fun _ => .modify fun s => h.agentRing s _ fun _ => ⟨rfl, rfl⟩) fun _ => .raise fun s => h.fault s _ nofun

theorem atomic {m : M α} (hm : Leads E I I m) : Leads E I I (atomic m) := .atomic (fun s _ => h.irq s _) hm

theorem arbitrate {f : Arbiter → Arbiter}
    (hf : ∀ a, (f a).rxEnabled = a.rxEnabled ∧ (f a).txFrame = a.txFrame ∧ (f a).txMinBatt = a.txMinBatt := by
      exact fun _ => ⟨rfl, rfl, rfl⟩) : Leads E I I (setArb f) := .modify fun s => h.agentArb s f hf

theorem rxStart {gap : M Unit} (hgap : Leads E I I gap) : Leads E I I (rxStart gap) :=
  h.atomic <| hgap.seq <| .get_bind fun _ => .ite
    (fun _ => (h.readReg _ _).bind fun _ => .ite
      (fun _ => h.arbitrate.seq <| hgap.seq <| .get_bind fun _ => (h.readReg _ _).bind fun _ =>
        (h.emitted _).seq <| hgap.seq <| (h.emitted _).seq <| hgap.seq h.arbitrate)
      fun _ => .pure _)
    fun _ => .pure _

theorem frameArrival (f : List Byte) : Leads E I I (frameArrival f) :=
  .get_bind_eq fun u hu => .ite
    (fun hin => .bind (.readReg fun _ hs => hs ▸ h.fault u _ nofun hu) fun w =>
      .seq (.modify fun _ hs => hs ▸ h.frame u w f hin.2.2.2 hu) <| (h.emitted _).seq <|
      h.arbitrate.seq <| .modify fun s => h.irq s _)
    fun _ => .weaken (.pure _) fun _ hs => hs ▸ hu

theorem txDoneStep : Leads E I I txDoneStep :=
  .get_bind fun _ => .ite
    (fun _ => (h.emitted _).seq h.arbitrate) fun _ => .pure _

theorem isrStep : Leads E I I isrStep :=
  have start : Leads E I I (Machine.rxStart (pure ())) := h.rxStart (.pure ())
  .get_bind fun _ => .ite
    (fun _ => h.atomic <| .seq (.modify fun s => h.irq s _) <| .seq (.modify h.raised) <| (h.readReg _ _).bind fun _ =>
      (h.frameValid _).bind fun _ => (h.emitted _).seq <| .ite
        (fun _ => .seq (.modify fun s => h.agentRing s _ fun _ => ⟨rfl, rfl⟩) <| (h.readReg _ _).bind fun _ =>
          (h.setFreeCount _).seq start)
        fun _ => start)
    fun _ => .pure _

theorem spiStep : Leads E I I spiStep :=
  .get_bind_eq fun u hu => .ite
    (fun hbusy => .ite (fun hoff => .raise fun _ hs => hs ▸ h.disconnected u hbusy hoff hu) fun hon =>
      .bind (.readReg fun _ hs => hs ▸ h.fault u _ nofun hu) fun _ =>
        .seq (Q := fun s => I s ∧ s.epd = u.epd) (.modify (by rintro _ rfl; exact ⟨h.emit _ _ hu, rfl⟩)) <|
        .modify fun s hs => h.byteOut s (hs.2 ▸ hbusy) (hs.2 ▸ by simpa using hon) hs.1)
    fun _ => .weaken (.pure _) fun _ hs => hs ▸ hu

theorem takeMove (m : Move) : Leads E I I (takeMove m) := by
  cases m with
  | frameArrival f => exact h.frameArrival f
  | txDone => exact h.txDoneStep
  | isr => exact h.isrStep
  | spiStep => exact h.spiStep

end AgentWrites

/-- An invariant that allows what a line of the host may do that takes no answer of the environment; the agents' steps
before the line are taken as a whole. -/
structure PointWrites (E : Stop → State → Prop) (I : State → Prop) : Prop extends StepWrites E I where
  tick : Leads E I I tick
  refuse : ∀ s x, I s → E (.refuse x) s
  pos : ∀ s p, I s → I (s.withHostPos p)
  status : ∀ s st, I s → I (s.onRes fun r => { r with status := some st })

namespace PointWrites

variable (h : PointWrites E I)
include h

theorem atLine (op : Byte) (n : Nat) : Leads E I I (atLine op n) := .seq (.modify fun s => h.pos s _) h.tick

/-- A numbered line of a command, then the rest. -/
theorem line {op : Byte} {n : Nat} {k : M β} (hk : Leads E I Q k) :
    Leads E I Q (Machine.atLine op n >>= fun _ => k) :=
  (h.atLine op n).seq hk

/-- A point between two lines, then the rest. -/
theorem point {k : M β} (hk : Leads E I Q k) : Leads E I Q (Machine.tick >>= fun _ => k) := h.tick.seq hk

/-- An event, then the rest. -/
theorem event {e : Event} {k : M β} (hk : Leads E I Q k) : Leads E I Q (Machine.emit e >>= fun _ => k) :=
  (h.emitted e).seq hk

theorem refused (x : Refusal) : Leads E I Q (Machine.refuse x : M α) := .refuse fun s => h.refuse s x

theorem hostRead (a : Nat) : Leads E I I (hostRead a) :=
  .get_bind fun s => .ite (fun _ => .raise fun s => h.fault s _ nofun) fun _ => by
    split
    · exact .pure _
    · exact .raise fun s => h.fault s _ nofun

theorem hostReadBytes (a n : Nat) : Leads E I I (hostReadBytes a n) := by
  induction n generalizing a with
  | zero => exact .pure []
  | succ n ih => exact (h.hostRead a).bind fun _ => (ih (a + 1)).bind fun _ => .pure _

theorem hostU16 (a : Nat) : Leads E I I (hostU16 a) :=
  (h.hostRead a).bind fun _ => (h.hostRead (a + 1)).bind fun _ => .pure _

theorem sleep (ms : Nat) : Leads E I I (sleep ms) := h.event h.tick

theorem command {op : Byte} {body : M Status} (hb : Leads E P I body) : Leads E P I (command op body) :=
  hb.bind fun st => .seq (.modify fun s => h.status s st) (h.emitted _)

theorem issue {op : Byte} {body : M Status} (hb : Leads E I I body) : Leads E I I (issue op body) :=
  .get_bind fun _ => .seq (.modify fun s => h.pos s _) <| (h.command hb).seq <| .modify fun s => h.pos s _

end PointWrites

/-- The agents' steps before a line, one by one. -/
theorem Leads.tick (move : ∀ m, Leads E I I (takeMove m)) (env : ∀ s f, I s → I (s.onEnv f)) : Leads E I I tick :=
  .get_bind fun s => by
    split
    · exact .pure ()
    · exact .seq (.modify fun s => env s _) <| .forEach fun m _ => move m

/-- An invariant that allows what every line of the host may do, the agents' steps before it included. -/
structure LineWrites (E : Stop → State → Prop) (I : State → Prop) : Prop extends PointWrites E I where
  move : ∀ m, Leads E I I (takeMove m)
  env : ∀ s f, I s → I (s.onEnv f)
  tick := .tick move env

namespace LineWrites

variable (h : LineWrites E I)
include h

theorem fairWhenUnscheduled : Leads E I I fairWhenUnscheduled :=
  .get_bind fun s => by
    split
    · exact .forEach fun m _ => h.move m
    · exact .pure ()

theorem setEnv (f : Env → Env) : Leads E I I (setEnv f) := .modify fun s => h.env s f

theorem freeAnswer (free : Nat → α) : Leads E I I (freeAnswer free) := .get_bind fun _ => (h.setEnv _).seq (.pure _)

/-- The environment's answers, each from its list or free (R20). -/
theorem draws : Leads E I I drawId ∧ Leads E I I adcSample ∧ Leads E I I drawKeep ∧ Leads E I I drawAck ∧
    Leads E I I drawRace := by
  refine ⟨.get_bind fun s => ?_, .get_bind fun s => ?_, .get_bind fun s => ?_, .get_bind fun s => ?_,
    .get_bind fun s => ?_⟩
  all_goals
    split
    · exact (h.setEnv _).seq (.pure _)
    · exact h.freeAnswer _

theorem adcSample : Leads E I I adcSample := h.draws.2.1

theorem busyRead (level : Bool) : Leads E I I (busyRead level) :=
  .get_bind fun s => by
    split
    · exact (h.setEnv _).seq (.pure _)
    · exact .ite (fun _ => .pure _) fun _ => h.freeAnswer _

theorem awaitShifter : Leads E I I awaitShifter := h.point (h.move .spiStep)

end LineWrites

end Sys2Proof.Machine

/-! PROOF. The commands walked over the writes of their half of the block (R66 to R103): the radio half, the compositing
primitives, the display engine, and the two whole draws. -/

namespace Sys2Proof.Machine

variable {α β : Type} {E : Stop → State → Prop} {P Q I : State → Prop}

/-! ### The radio half -/

/-- An invariant that allows what the radio half's commands write, HOST and RADIO_TRANSMIT apart. The two procedures that
start and stop receive are taken as wholes, since they are the ones that move the arbiter's state machine. -/
structure LinkWrites (E : Stop → State → Prop) (I : State → Prop) : Prop extends LineWrites E I where
  irq : ∀ s f, I s → I (s.onIrq f)
  radio : ∀ s f, I s → I (s.onRadio f)
  ring : ∀ s f, (∀ r, (f r).cells = r.cells) → I s → I (s.onRing f)
  xreg : ∀ s (a v : Byte), I s → I (s.onXreg fun m => m.write a.toNat v)
  res : ∀ s f, I s → I (s.onRes f)
  linkArb : ∀ s f, (∀ a, (f a).rxArmed = a.rxArmed ∧ (f a).radioState = a.radioState) → I s → I (s.onArb f)
  disarm : ∀ s, I s → I (s.onArb fun a => { a with rxArmed := false, radioState := .idle })
  start : Leads E I I rxStartIfNeeded
  stop : ∀ keep, Leads E I I (rxStopHw keep)

namespace LinkWrites

variable (h : LinkWrites E I)
include h

theorem atomic {m : M α} (hm : Leads E I I m) : Leads E I I (atomic m) := .atomic (fun s _ => h.irq s _) hm

theorem setRadio {f : RadioFlags → RadioFlags} {k : M β} (hk : Leads E I Q k) :
    Leads E I Q (Machine.setRadio f >>= fun _ => k) := .seq (.modify fun s => h.radio s f) hk

theorem setRes {f : Results → Results} {k : M β} (hk : Leads E I Q k) :
    Leads E I Q (Machine.setRes f >>= fun _ => k) := .seq (.modify fun s => h.res s f) hk

theorem setRing {f : Ring → Ring} (hf : ∀ r, (f r).cells = r.cells := by exact fun _ => rfl) :
    Leads E I I (Machine.setRing f) := .modify fun s => h.ring s f hf

theorem setArb {f : Arbiter → Arbiter}
    (hf : ∀ a, (f a).rxArmed = a.rxArmed ∧ (f a).radioState = a.radioState := by exact fun _ => ⟨rfl, rfl⟩) :
    Leads E I I (Machine.setArb f) := .modify fun s => h.linkArb s f hf

theorem setFreeCount (v : Int) : Leads E I I (setFreeCount v) :=
  .ite (fun _ => h.setRing) fun _ => .raise fun s => h.fault s _ nofun

theorem busWrite (a v : Byte) : Leads E I I (busWrite a v) := h.event <| .modify fun s => h.xreg s a v

theorem setValue {v : U16} {k : M β} (hk : Leads E I Q k) : Leads E I Q (Machine.setValue v >>= fun _ => k) :=
  h.setRes hk

theorem applyTable (t : List Byte) : Leads E I I (applyTable t) :=
  .get_bind fun s => by
    split
    · exact h.refused _
    · exact h.atomic <| .forEach fun e _ => h.point <| h.busWrite _ _

theorem setPaHw (dBm : Int) : Leads E I I (setPaHw dBm) :=
  .get_bind fun s => by
    split
    · exact h.refused _
    · exact h.point <| (h.busWrite _ _).seq <| h.point <| .modify fun s => h.radio s _

theorem radioInit : Leads E I I radioInit :=
  .get_bind fun s => h.line <| (h.atomic <| .seq (.modify h.disarm) <| .modify fun s => h.irq s _).seq <|
    h.line <| h.event <| h.line <| h.setRadio <|
    h.line <| .bind (.get_bind fun _ => h.draws.1.bind fun _ => h.event <| .pure _) fun _ => h.line <| .ite
      (fun _ => h.line <| h.setRadio <| h.line <| .pure _)
      fun _ => h.line <| h.setRadio <| h.line <| h.setRadio <| h.point <| (h.applyTable _).seq <|
        h.line <| (h.setPaHw _).seq <| h.line <| (h.atomic h.setRing).seq <| h.line <| h.setArb.seq <|
        h.setRadio <| h.line <| h.setRadio <| h.line <| .pure _

theorem gated {op : Byte} {allowsTest : Bool} {onClosed : M Unit} {body : M Status} (hc : Leads E I I onClosed)
    (hb : Leads E I I body) : Leads E I I (gated op allowsTest onClosed body) :=
  h.line <| .get_bind fun _ => .ite (fun _ => hc.seq <| .pure _) fun _ => .ite (fun _ => hb) fun _ =>
    h.line <| .get_bind fun _ => .ite (fun _ => h.refused _) fun _ => hb

theorem radioSetChannel (ch : Byte) : Leads E I I (radioSetChannel ch) :=
  have tests : Leads E I I (bandTests ch) :=
    .get_bind fun _ => h.line <| .ite (fun _ => .pure _) fun _ => h.line <| .ite (fun _ => .pure _) fun _ =>
      h.atLine _ _
  have select (b : Band) : Leads E I I (selectBand b) :=
    .get_bind fun _ => .ite (fun _ => h.setRadio <| h.point <| h.applyTable _) fun _ => .pure _
  h.gated (.pure _) <| .get_bind fun _ => tests.seq <| h.line <| (select _).seq <| h.line <| h.setRadio <|
    h.line <| (h.busWrite _ _).seq <| h.line <| .pure _

theorem radioSetTxPower (dBm : Byte) : Leads E I I (radioSetTxPower dBm) :=
  h.gated (.pure _) <| h.line <| (h.setPaHw _).seq <| h.line <| .pure _

theorem enterFreqTest : Leads E I I enterFreqTest :=
  .get_bind fun _ => h.line <| (h.stop _).seq <| h.line <| h.setRadio <| h.point <| h.applyTable _

theorem leaveFreqTest : Leads E I I leaveFreqTest :=
  h.line <| .get_bind fun s => (h.readReg _ _).bind fun _ => h.setRadio <| h.point <| (h.applyTable _).seq <|
    h.line <| by
    split
    · exact (h.busWrite _ _).seq <| h.line h.start
    · exact h.line h.start

theorem radioSetFreqTest (on : Bool) : Leads E I I (radioSetFreqTest on) :=
  have last : Leads E I I (do Machine.atLine 0x09#8 9; pure Status.ok) := h.line <| .pure _
  h.gated (.pure _) <| h.line <| .get_bind fun _ => .ite (fun _ => h.enterFreqTest.seq last) fun _ =>
    h.line <| .get_bind fun _ => .ite (fun _ => h.leaveFreqTest.seq last) fun _ => last

/-- RADIO_RECEIVE writes HOST from its operand's address on, one byte of the frame after the other (R74). -/
theorem radioReceive {dst : U16} (hstore : ∀ s i v, i ≤ 255 → dst.toNat + i < s.cfg.hostMemSize → I s →
    I (s.onHostMem fun m => m.write (dst.toNat + i) v)) : Leads E I I (radioReceive dst) := by
  have slot (r : Fin 3) (o : Nat) : Leads E I I (slotRead r o) :=
    .get_bind fun _ => .ite (fun _ => .raise fun s => h.fault s _ nofun) fun _ =>
      .ite (fun _ => h.draws.2.2.2.2) fun _ => h.ringRead _ _
  have store (i : Nat) (v : Byte) (hi : i ≤ 255) : Leads E I I (hostWrite (dst.toNat + i) v) :=
    .get_bind_eq fun u hu => .ite (fun _ => .raise fun _ hs => hs ▸ h.fault u _ nofun hu) fun hin =>
      .modify fun _ hs => hs ▸ hstore u i v hi (Nat.not_le.1 hin) hu
  have free : Leads E I I freeSlot := .get_bind fun u => (h.readReg _ _).bind fun n => .seq
    (fun s hs => by
      rw [oneStep_run, atomic_run, setFreeCount_run]
      by_cases hn : 0 ≤ (n : Int) + 1 ∧ (n : Int) + 1 ≤ 3
      · rw [if_pos hn]
        exact h.irq _ _ <| h.ring _ _ (fun _ => rfl) <| h.irq s _ hs
      · rw [if_neg hn]
        exact h.fault s _ nofun hs)
    (.pure _)
  have copy (r : Fin 3) (len : Byte) : Leads E I I (forEach (receiveByte dst r) (List.range (len.toNat + 1))) :=
    .forEach fun i hi => h.line <| (slot r i).bind fun v => store i v (by have := List.mem_range.1 hi; omega)
  exact h.gated (.pure _) <| h.line <| .get_bind fun _ => (h.readReg _ _).bind fun _ => .ite (fun _ => .pure _) fun _ =>
    h.line <| .get_bind fun _ => (h.readReg _ _).bind fun r => h.line <| (slot _ _).bind fun len =>
    h.line <| .ite (fun _ => .raise fun s => h.fault s _ nofun) fun _ =>
    h.line <| (slot _ _).bind fun _ => h.setRes <| h.line <| (slot _ _).bind fun _ => h.setRes <|
    (copy r len).seq <| h.line <| h.setRing.seq <| h.line <| free.bind fun _ => h.line <| .ite
      (fun _ => h.start.seq <| h.line <| h.setValue <| h.line <| .pure _)
      fun _ => h.line <| h.setValue <| h.line <| .pure _

theorem radioFlush : Leads E I I radioFlush :=
  have flush : Leads E I I flushRing :=
    .get_bind fun _ => (h.readReg _ _).bind fun _ => (h.atomic <| h.setFreeCount _).seq <| .pure _
  h.gated (.pure _) <| h.line <| flush.bind fun _ => h.line <| .ite
    (fun _ => h.start.seq <| h.line <| .pure _) fun _ => h.line <| .pure _

theorem radioEnableRx (on : Bool) : Leads E I I (radioEnableRx on) :=
  h.gated (.pure _) <| h.line <| .ite
    (fun _ => h.line <| (h.atomic <| (h.stop _).seq <| h.point <| h.setRadio h.setArb).seq <| h.line <| .pure _)
    fun _ => h.line <| .get_bind fun _ => .ite
      (fun _ => h.line <| h.setArb.seq <| h.line <| h.start.seq <| h.line <| .pure _)
      fun _ => h.line <| .pure _

theorem radioRxAckGetLast : Leads E I I radioRxAckGetLast :=
  h.gated (.modify fun s => h.res s _) <| h.line <| h.draws.2.2.2.1.bind fun _ => h.line <| h.setValue <|
    h.line <| .pure _

theorem platformSetRadioEnabled (on : Bool) : Leads E I I (platformSetRadioEnabled on) :=
  h.line <| h.setRadio <| h.line <| .pure _

end LinkWrites

/-- An invariant that allows everything the radio half's commands write, HOST apart. -/
structure RadioWrites (E : Stop → State → Prop) (I : State → Prop) : Prop extends LineWrites E I, AgentWrites E I where
  radio : ∀ s f, I s → I (s.onRadio f)
  arb : ∀ s f, I s → I (s.onArb f)
  ring : ∀ s f, (∀ r, (f r).cells = r.cells) → I s → I (s.onRing f)
  xreg : ∀ s (a v : Byte), I s → I (s.onXreg fun m => m.write a.toNat v)
  res : ∀ s f, I s → I (s.onRes f)
  poll : ∀ s polls, I s → E (.hold (.txPoll polls)) s

namespace RadioWrites

variable (h : RadioWrites E I)
include h

theorem setArb {f : Arbiter → Arbiter} {k : M β} (hk : Leads E I Q k) :
    Leads E I Q (Machine.setArb f >>= fun _ => k) := .seq (.modify fun s => h.arb s f) hk

theorem setIrq (f : Interrupt → Interrupt) : Leads E I I (Machine.setIrq f) := .modify fun s => h.irq s f

theorem rxStopHw (keep : Bool) : Leads E I I (rxStopHw keep) :=
  h.atomic <| h.point <| h.event <| h.point <| h.setArb <| h.point <| h.setArb <| h.point <| .ite
    (fun _ => h.draws.2.2.1.bind fun _ => h.setIrq _) fun _ => h.setIrq _

theorem link : LinkWrites E I :=
  { h with
    linkArb := fun s f _ => h.arb s f, disarm := fun s => h.arb s _, start := h.rxStart h.tick, stop := h.rxStopHw }

theorem transmitPolls (fuel polls : Nat) : Leads E I I (transmitPolls fuel polls) := by
  have ended : Leads E I I transmitEnd :=
    h.line <| h.setArb <| h.line <| h.link.start.seq <| h.line <| h.link.setValue <| h.line <| .pure _
  have timeout : Leads E I I transmitTimeout :=
    h.line <| h.event <| h.setArb <| h.point <| h.link.start.seq <| h.point <| h.link.setValue <| .pure _
  have between : Leads E I I xcvrBetweenPolls := .get_bind fun s => by
    split
    · exact .ite (fun _ => h.move _) fun _ => (h.freeAnswer _).bind fun _ =>
        .ite (fun _ => h.move _) fun _ => .pure _
    · exact .pure _
  induction fuel generalizing polls with
  | zero => exact .stayAt fun s => h.poll s polls
  | succ fuel ih =>
    exact h.line <| h.line <| h.adcSample.bind fun _ => h.event <| .get_bind fun _ => (h.readReg _ _).bind fun _ =>
      h.setArb <| h.line <| .get_bind fun _ => .ite (fun _ => ended) fun _ => h.line <|
      .ite (fun _ => timeout) fun _ => between.seq <| ih _

theorem transmitLoop (polls : Nat) : Leads E I I (transmitLoop polls) := .get_bind fun _ => h.transmitPolls _ polls

theorem radioTransmit (buf : U16) : Leads E I I (radioTransmit buf) :=
  h.link.gated (.modify fun s => h.res s _) <| .get_bind fun _ => h.line <| (h.hostRead _).bind fun _ => h.line <| .ite
    (fun _ => h.link.setValue <| .pure _)
    fun _ => h.line <| (h.rxStopHw _).seq <| h.line <| (h.hostReadBytes _ _).bind fun _ => h.setArb <|
      h.line <| h.setArb <| h.line <| h.event <| h.setArb <| h.line <| h.setArb <| h.transmitLoop _

end RadioWrites

/-! ### The compositing primitives -/

/-- An invariant that allows what the compositing primitives write: of the draw context neither the pass nor the
chunk, and a scratch cell only where it holds a value, to ink bits of it (R96). -/
structure InkWrites (E : Stop → State → Prop) (I : State → Prop) : Prop extends PointWrites E I where
  compose : ∀ s f,
    (∀ d, (f d).scratch = d.scratch ∧ (f d).passPlane = d.passPlane ∧ (f d).chunkStartY = d.chunkStartY) → I s →
      I (s.onDraw f)
  outside : ∀ s o, I s → I (s.onRes fun r => { r with outside := some o })
  ink : ∀ s o b m, o < s.cfg.scratchSize → s.draw.scratch.read o = some b → I s →
    I (s.onDraw fun d => { d with scratch := d.scratch.write o (b ||| m) })

theorem Leads.glyphPixels (g : Glyph) {place : Nat → Nat → M Unit} (hp : ∀ r k, Leads E I I (place r k)) :
    Leads E I I (Machine.glyphPixels g place) :=
  .forEach fun r _ => .forEach fun k _ => .ite (fun _ => hp r k) fun _ => .pure ()

namespace InkWrites

variable (h : InkWrites E I)
include h

theorem composed {f : Draw → Draw}
    (hf : ∀ d, (f d).scratch = d.scratch ∧ (f d).passPlane = d.passPlane ∧ (f d).chunkStartY = d.chunkStartY := by
      exact fun _ => ⟨rfl, rfl, rfl⟩) : Leads E I I (Machine.setDraw f) := .modify fun s => h.compose s f hf

theorem setWinX (x w : Nat) : Leads E I I (setWinX x w) := h.composed

theorem setCurX (x : Nat) : Leads E I I (setCurX x) := h.composed

theorem bias : Leads E I I bias :=
  .get_bind fun _ => .ite (fun _ => (h.readReg _ _).bind fun _ => .pure _) fun _ => .pure _

theorem orPixel (x y : Nat) : Leads E I I (orPixel x y) :=
  have inked (o : Nat) : Leads E I I (scratchRead o >>= fun b => scratchWrite o (b ||| pixelMask x)) := by
    intro s hs
    rw [EStateM.run_bind, scratchRead_run]
    by_cases ho : s.cfg.scratchSize ≤ o
    · simp only [ho, if_true]
      exact h.fault s _ nofun hs
    · cases hb : s.draw.scratch.read o with
      | none =>
        simp only [ho, if_false]
        exact h.fault s _ nofun hs
      | some b =>
        simp only [ho, if_false, scratchWrite_run]
        exact h.ink s o b _ (Nat.not_le.1 ho) hb hs
  h.point <| .get_bind fun s => (h.readReg _ _).bind fun _ => (h.readReg _ _).bind fun _ => .ite (fun _ => .pure _)
    fun _ => (h.readReg _ _).bind fun _ => (h.readReg _ _).bind fun _ => .ite (fun _ => .pure _)
    fun _ => (h.readReg _ _).bind fun _ => (h.readReg _ _).bind fun _ => (h.readReg _ _).bind fun _ =>
    .ite (fun _ => .pure _) fun _ => h.bias.bind fun _ => .ite (fun _ => .raise fun s => h.fault s _ nofun) fun _ =>
    inked _

theorem setWindowY {point : Nat → M Unit} (hp : ∀ n, Leads E I I (point n)) (start height : Nat) :
    Leads E I I (setWindowY point start height) :=
  (hp 2).seq <| h.composed.seq <| (hp 3).seq <| .get_bind fun _ => (h.readReg _ _).bind fun _ => (hp 4).seq <|
    h.composed.seq <| .seq (.modify fun s => h.outside s _) <| (hp 5).seq <| .ite
      (fun _ => (hp 6).seq <| h.composed.seq <| (hp 7).seq <| .get_bind fun _ => (h.readReg _ _).bind fun _ =>
        h.bias.bind fun _ => h.composed.seq <| .pure _)
      fun _ => .pure _

theorem inDraw (i : Instr) {body : M Status} (hb : Leads E I I body) : Leads E I I (inDraw i body) :=
  h.line <| .get_bind fun _ => .ite (fun _ => h.refused _) fun _ => hb

theorem clientSetWindowX (start width : BitVec 12) : Leads E I I (clientSetWindowX start width) :=
  h.inDraw _ <| h.line <| (h.setWinX _ _).seq <| (h.setCurX _).seq <| h.line <| .pure _

theorem clientSetWindowY (start height : BitVec 12) : Leads E I I (clientSetWindowY start height) :=
  h.inDraw _ <| (h.setWindowY (h.atLine _) _ _).seq <| h.line <| .pure _

theorem bitmapRows (a x y w height : Nat) : Leads E I I (bitmapRows a x y w height) :=
  have pixel (rb r k : Nat) : Leads E I I (bitmapPixel a x y rb r k) :=
    h.line <| (h.hostRead _).bind fun _ => .ite (fun _ => h.orPixel _ _) fun _ => .pure _
  have row (rb r : Nat) : Leads E I I (bitmapRow a x y w rb r) := .forLine (h.atLine _ _) (pixel rb r)
  h.line <| .get_bind fun _ => (h.readReg _ _).bind fun _ => .forLine (h.atLine _ _) (row _)

theorem clientLoadRawBitmap (a : U16) : Leads E I I (clientLoadRawBitmap a) :=
  h.inDraw _ <| h.line <| (h.hostU16 _).bind fun _ => (h.hostU16 _).bind fun _ => (h.hostRead _).bind fun col =>
    (h.hostU16 _).bind fun _ => (h.hostU16 _).bind fun _ => h.line <| by
      split
      · exact h.refused _
      · exact h.line <| h.composed.seq <| h.line <| (h.setWinX _ _).seq <| (h.setCurX _).seq <|
          h.line <| (h.setWindowY (fun _ => h.tick) _ _).bind fun _ => h.line <| .ite (fun _ => .pure _) fun _ =>
          (h.bitmapRows _ _ _ _ _).seq <| h.line <| .pure _

theorem clientPrintBegin (a : U16) : Leads E I I (clientPrintBegin a) :=
  h.inDraw _ <| h.line <| (h.hostU16 _).bind fun _ => (h.hostU16 _).bind fun _ => (h.hostRead _).bind fun dir =>
    (h.hostRead _).bind fun _ => (h.hostRead _).bind fun col => h.line <| by
      split
      · exact h.refused _
      · split
        · exact h.refused _
        · exact h.line <| h.composed.seq <| h.line <| h.composed.seq <| h.line <| .pure _

theorem writeUpright (g : Glyph) (x y : Nat) : Leads E I I (writeUpright g x y) :=
  h.line <| (h.setWinX _ _).seq <| (h.setWindowY (fun _ => h.tick) _ _).bind fun _ => h.line <| .ite
    (fun _ => h.line <| (Leads.glyphPixels g fun _ _ => h.orPixel _ _).seq <| h.line <| h.setCurX _)
    fun _ => h.line <| h.setCurX _

theorem writeTurned (g : Glyph) (x y : Nat) : Leads E I I (writeTurned g x y) :=
  h.line <| (h.setWinX _ _).seq <| (h.setWindowY (fun _ => h.tick) _ _).bind fun _ => h.line <| .ite
    (fun _ => h.line <| (Leads.glyphPixels g fun _ _ => h.orPixel _ _).seq <| h.line h.composed)
    fun _ => h.line h.composed

theorem clientWriteChar (ch : Byte) : Leads E I I (clientWriteChar ch) :=
  h.inDraw _ <| h.line <| .get_bind fun _ => .ite (fun _ => h.refused _) fun _ => h.line <|
    (h.readReg _ _).bind fun _ => (h.readReg _ _).bind fun dir => (h.readReg _ _).bind fun _ =>
    (h.readReg _ _).bind fun _ => h.line <| by
      cases dir with
      | horizontal => exact (h.writeUpright _ _ _).seq <| h.line <| .pure _
      | vertical => exact (h.writeTurned _ _ _).seq <| h.line <| .pure _

theorem clientPrintEnd : Leads E I I clientPrintEnd :=
  h.inDraw _ <| h.line <| h.composed.seq <| h.line <| .pure _

theorem barcodeColumns (x y height : Nat) (bars : List Bool) : Leads E I I (barcodeColumns x y height bars) := by
  induction bars generalizing x with
  | nil => exact h.atLine _ _
  | cons bar bars ih =>
    exact h.line <| h.line <| .ite (fun _ => .seq (.forEach fun _ _ => h.orPixel _ _) (ih _)) fun _ => ih _

theorem clientPrintBarcode (a : U16) : Leads E I I (clientPrintBarcode a) :=
  h.inDraw _ <| h.line <| .get_bind fun _ => (h.hostU16 _).bind fun _ => (h.hostU16 _).bind fun _ =>
    (h.hostRead _).bind fun _ => (h.hostReadBytes _ _).bind fun _ => h.line <| h.line <| h.composed.seq <|
    h.line <| (h.setWinX _ _).seq <| (h.setCurX _).seq <|
    h.line <| (h.setWindowY (fun _ => h.tick) _ _).bind fun _ => h.line <| .ite (fun _ => .pure _) fun _ =>
    (h.barcodeColumns _ _ _ _).seq <| h.line <| .pure _

/-- A callback's word is one of the seven primitives or is refused (R95). -/
theorem callbackWord (w : Word) : Leads E I I (callbackWord w) :=
  have primitive (i : Instr) : Leads E I I (issuePrimitive w i) := by
    cases i with
    | clientSetWindowX start width => exact h.issue (h.clientSetWindowX start width)
    | clientSetWindowY start height => exact h.issue (h.clientSetWindowY start height)
    | clientLoadRawBitmap a => exact h.issue (h.clientLoadRawBitmap a)
    | clientPrintBegin a => exact h.issue (h.clientPrintBegin a)
    | clientWriteChar ch => exact h.issue (h.clientWriteChar ch)
    | clientPrintEnd => exact h.issue h.clientPrintEnd
    | clientPrintBarcode a => exact h.issue (h.clientPrintBarcode a)
    | _ => exact h.refused _
  h.line <| .ite (fun _ => h.refused _) fun _ => h.line <| by
    split
    · exact h.refused _
    · exact primitive _

end InkWrites

/-- An invariant that allows what the compositing primitives and the draw context's own lines write. -/
structure DrawWrites (E : Stop → State → Prop) (I : State → Prop) : Prop extends LineWrites E I where
  draw : ∀ s f, (∀ d, (f d).scratch = d.scratch) → I s → I (s.onDraw f)
  outside : ∀ s o, I s → I (s.onRes fun r => { r with outside := some o })
  ink : ∀ s o b m, o < s.cfg.scratchSize → s.draw.scratch.read o = some b → I s →
    I (s.onDraw fun d => { d with scratch := d.scratch.write o (b ||| m) })

theorem DrawWrites.inks (h : DrawWrites E I) : InkWrites E I :=
  { h with compose := fun s f hf => h.draw s f fun d => (hf d).1 }

theorem DrawWrites.setDraw (h : DrawWrites E I) {f : Draw → Draw}
    (hf : ∀ d, (f d).scratch = d.scratch := by exact fun _ => rfl) : Leads E I I (Machine.setDraw f) :=
  .modify fun s => h.draw s f hf

end Sys2Proof.Machine

/-! PROOF. The display half walked over its writes (R79 to R95), and the commands and holds that a step runs. -/

namespace Sys2Proof.Machine

variable {α β : Type} {E : Stop → State → Prop} {P Q I : State → Prop}

/-! ### The display engine -/

namespace LineWrites

variable (h : LineWrites E I)
include h

theorem goTo (caller : PowerCaller) (n : Nat) : Leads E I I (caller.goTo n) := by
  cases caller with
  | command => exact .modify fun s => h.pos s _
  | startTransfer _ | drawImage _ _ | drawScreen _ _ => exact .pure ()

theorem finish (caller : PowerCaller) : Leads E I I caller.finish := by
  cases caller with
  | command => exact h.atLine _ _
  | startTransfer _ | drawImage _ _ | drawScreen _ _ => exact .pure ()

/-- Line `n` of power-up, then the rest. -/
theorem powerLine {caller : PowerCaller} (n : Nat) {k : M β} (hk : Leads E I Q k) :
    Leads E I Q (caller.atLine n >>= fun _ => k) :=
  ((h.goTo caller n).seq h.tick).seq hk

theorem awaitBusy (level : Bool) {p : HostPos} (hp : ∀ s, I s → E (.hold p) s) : Leads E I I (awaitBusy level p) :=
  have upTo (fuel : Nat) : Leads E I I (awaitBusyUpTo level p fuel) := by
    induction fuel with
    | zero => exact .stayAt hp
    | succ fuel ih => exact h.point <| (h.busyRead level).bind fun _ => .ite (fun _ => .pure ()) fun _ => ih
  .get_bind fun _ => upTo _

end LineWrites

/-- A write of the display engine that leaves its power, its bus and its shifter alone. -/
def Display.KeptBy (f : Display → Display) : Prop :=
  ∀ d, (f d).epdPowered = d.epdPowered ∧ (f d).spiConnected = d.spiConnected ∧ (f d).spiBusy = d.spiBusy ∧
    (f d).spiHold = d.spiHold

/-- An invariant that allows the pins and the counts of the display engine. -/
structure PinWrites (E : Stop → State → Prop) (I : State → Prop) : Prop extends LineWrites E I where
  pins : ∀ s f, Display.KeptBy f → I s → I (s.onEpd f)

/-- An invariant under which a byte can be handed to the shifter (R80). -/
structure PanelWrites (E : Stop → State → Prop) (I : State → Prop) : Prop extends PinWrites E I where
  hand : ∀ t k b, Leads E I I (panelSend t k b)

theorem PinWrites.setPins (h : PinWrites E I) {f : Display → Display}
    (hf : Display.KeptBy f := by exact fun _ => ⟨rfl, rfl, rfl, rfl⟩) : Leads E I I (setEpd f) :=
  .modify fun s => h.pins s f hf

theorem PinWrites.pinCsAll (h : PinWrites E I) (level : Bool) : Leads E I I (pinCsAll level) :=
  .get_bind fun _ => .forEach fun c _ => h.point <|
    .seq (h.setPins (by cases c <;> exact fun _ => ⟨rfl, rfl, rfl, rfl⟩)) (h.emitted _)

namespace PanelWrites

variable (h : PanelWrites E I)
include h

theorem sendEntry (cmd : Byte) (data : List Byte) : Leads E I I (sendEntry cmd data) :=
  .get_bind fun _ => h.awaitShifter.seq <| (h.pinCsAll _).seq <| (h.hand _ _ _).seq <|
    .seq (.forEach fun _ _ => h.hand _ _ _) <| h.awaitShifter.seq <| h.pinCsAll _

theorem sendTable (t : List Byte) : Leads E I I (sendTable t) :=
  .get_bind fun s => by
    split
    · exact h.refused _
    · exact .forEach fun _ _ => h.sendEntry _ _

end PanelWrites

/-- The phases of the display engine's commands: `I` where no command runs, `off` while the panel is not powered, `rising`
from its connection on, `on` while it is powered, `drained` from the last byte of its shutdown on (R85 to R89). -/
structure EngineWrites (E : Stop → State → Prop) (I off rising on drained : State → Prop) : Prop where
  resting : PinWrites E I
  unpowered : PinWrites E off
  connected : PanelWrites E rising
  powered : PanelWrites E on
  ending : PinWrites E drained
  of_unpowered : ∀ s, s.epd.epdPowered = false → I s → off s
  of_powered : ∀ s, s.epd.epdPowered = true → I s → on s
  connect : ∀ s, off s → rising (s.onEpd fun d => { d with spiConnected := true, pinLinesLow := !true })
  power : ∀ s, rising s → on (s.onEpd fun d => { d with epdPowered := true })
  drain : Leads E on drained awaitShifter
  disconnect : ∀ s, drained s → drained (s.onEpd fun d => { d with spiConnected := false, pinLinesLow := !false })
  unpower : ∀ s, drained s → I (s.onEpd fun d => { d with epdPowered := false })
  rest : ∀ s, on s → I s
  wait : ∀ s w c, rising s → E (.hold (.busyWait w c)) s
  refreshing : ∀ s m c, on s → E (.hold (.refreshPoll m c)) s

namespace EngineWrites

variable {off rising on drained : State → Prop} (h : EngineWrites E I off rising on drained)
include h

theorem rested {m : M α} (hm : Leads E P on m) : Leads E P I m := hm.strengthen h.rest

/-- A command of the powered panel, refused of an unpowered one. -/
theorem ifPowered {f : State → M α} (hf : ∀ u, Leads E on Q (f u)) :
    Leads E I Q (get >>= fun s => if s.epd.epdPowered = false then Machine.refuse .epdNotPowered else f s) :=
  .get_bind_eq fun u hu => .ite (fun _ => .refuse fun _ hs => hs ▸ h.resting.refuse u _ hu) fun hp =>
    (hf u).weaken fun _ hs => hs ▸ h.of_powered u (by simpa using hp) hu

theorem epdSendTable (id : Byte) : Leads E I I (epdSendTable id) :=
  h.resting.line <| .get_bind_eq fun u hu => by
    split
    · exact .refuse fun _ hs => hs ▸ h.resting.refuse u _ hu
    · exact .ite (fun _ => .refuse fun _ hs => hs ▸ h.resting.refuse u _ hu) fun hp =>
        .weaken (h.rested <| h.powered.line <| (h.powered.sendTable _).seq <| h.powered.line <| .pure _)
          fun _ hs => hs ▸ h.of_powered u (by simpa using hp) hu

theorem powerUpFrom12 (c : PowerCaller) : Leads E rising on (powerUpFrom12 c) :=
  have up := h.connected
  .get_bind fun _ => (up.goTo _ _).seq <| (up.awaitBusy _ fun s => h.wait s _ _).seq <| up.powerLine 13 <|
    (up.sendTable _).seq <| up.powerLine 14 <| (up.sendEntry _ _).seq <| up.powerLine 15 <|
    .seq (.modify h.power) (h.powered.finish c)

theorem powerUpFrom11 (c : PowerCaller) : Leads E rising on (powerUpFrom11 c) :=
  .get_bind fun _ => (h.connected.goTo _ _).seq <| (h.connected.awaitBusy _ fun s => h.wait s _ _).seq <|
    h.powerUpFrom12 c

theorem powerUpFrom8 (c : PowerCaller) : Leads E rising on (powerUpFrom8 c) :=
  have up := h.connected
  .get_bind fun _ => (up.goTo _ _).seq <| (up.awaitBusy _ fun s => h.wait s _ _).seq <| up.powerLine 9 <|
    (up.sendTable _).seq <| up.powerLine 10 <| (up.sendEntry _ _).seq <| h.powerUpFrom11 c

theorem powerUpFrom (w : BusyWait) (c : PowerCaller) : Leads E rising on (powerUpFrom w c) := by
  cases w with
  | line8 => exact h.powerUpFrom8 c
  | line11 => exact h.powerUpFrom11 c
  | line12 => exact h.powerUpFrom12 c

theorem powerUpIfNeeded (c : PowerCaller) : Leads E I on (powerUpIfNeeded c) :=
  have down := h.unpowered
  have up := h.connected
  h.resting.powerLine 1 <| .get_bind_eq fun u hu => .ite
    (fun hp => .weaken (.pure _) fun _ hs => hs ▸ h.of_powered u hp hu)
    fun hp => .weaken
      (down.powerLine 2 <| (down.pinCsAll _).seq <| down.powerLine 3 <| .seq (down.setPins.seq (down.emitted _)) <|
        down.powerLine 4 <| .seq (.seq (.modify h.connect) (up.emitted _)) <| up.powerLine 5 <| (up.sleep _).seq <|
        up.powerLine 6 <| .seq (up.setPins.seq (up.emitted _)) <| up.powerLine 7 <| (up.sleep _).seq <|
        h.powerUpFrom8 c)
      fun _ hs => hs ▸ h.of_unpowered u (by simpa using hp) hu

theorem epdPowerUpIfNeeded : Leads E I I epdPowerUpIfNeeded := (h.rested (h.powerUpIfNeeded _)).seq (.pure _)

/-- `Shutdown()`, whatever stands before its lines. -/
theorem shutdown {point : Nat → M Unit} (hp : ∀ {J : State → Prop}, LineWrites E J → ∀ n, Leads E J J (point n)) :
    Leads E I I (shutdown point) :=
  have on := hp h.powered.toLineWrites
  have last := h.ending
  have after := hp last.toLineWrites
  have rest := hp h.resting.toLineWrites
  (rest 1).seq <| .get_bind_eq fun u hu => .ite (fun _ => .weaken (.pure _) fun _ hs => hs ▸ hu) fun hpow =>
    .weaken
      ((on 2).seq <| (h.powered.sendTable _).seq <| (on 3).seq <| h.drain.seq <|
        (after 4).seq <| .seq (.seq (.modify h.disconnect) (last.emitted _)) <| (after 5).seq <| (last.pinCsAll _).seq <|
        (after 6).seq <| .seq (last.setPins.seq (last.emitted _)) <|
        (after 7).seq <| .seq (last.setPins.seq (last.emitted _)) <| (after 8).seq <| .seq (.modify h.unpower) <|
        (rest 9).seq <| h.resting.setPins.seq <| rest 10)
      fun _ hs => hs ▸ h.of_powered u (by simpa using hpow) hu

theorem epdShutdown : Leads E I I epdShutdown := (h.shutdown fun hj => hj.atLine _).seq (.pure _)

theorem startTransferTail (a : Bool) : Leads E on I (startTransferTail a) :=
  h.rested <| h.powered.line <| .get_bind fun _ => (h.powered.sendEntry _ _).seq <| h.powered.line <|
    h.powered.setPins.seq <| h.powered.line <| .pure _

theorem startTransfer (c : PowerCaller) (a : Bool) : Leads E I I (startTransfer c a) :=
  (h.powerUpIfNeeded c).seq (h.startTransferTail a)

theorem epdSendByte (b : Byte) : Leads E I I (epdSendByte b) :=
  h.resting.line <| h.ifPowered fun _ => h.rested <| h.powered.line <| h.powered.line <| (h.powered.hand _ _ _).seq <|
    h.powered.line <| h.powered.setPins.seq <| h.powered.line <| .pure _

theorem refreshPolls (c : RefreshCaller) (fuel : Nat) (m : U16) : Leads E on on (refreshPolls c fuel m) := by
  have on' := h.powered
  induction fuel generalizing m with
  | zero => exact .stayAt fun s => h.refreshing s m c
  | succ fuel ih =>
    exact .get_bind fun _ => on'.line <| on'.line <| (on'.sleep _).seq <| on'.line <| on'.adcSample.bind fun _ =>
      on'.event <| on'.line <| (on'.busyRead _).bind fun _ => .ite (fun _ => .pure _) fun _ => ih _

theorem refreshFrom (c : RefreshCaller) (m : U16) : Leads E on I (refreshFrom c m) :=
  .get_bind fun _ => (h.refreshPolls _ _ _).bind fun _ => h.powered.line <| h.powered.setPins.seq <|
    h.powered.line <| h.powered.event <| .seq (h.rested (h.powered.atLine _ _)) <|
    (h.shutdown fun hj _ => .ite (fun _ => hj.tick) fun _ => .pure ()).seq <| h.resting.line <| .pure _

theorem refreshAndSleep (c : RefreshCaller) : Leads E I I (refreshAndSleep c) :=
  h.resting.line <| h.ifPowered fun _ => h.powered.line <| (h.powered.sendTable _).seq <| h.powered.line <|
    h.refreshFrom c _

end EngineWrites

/-! ### The two whole draws -/

/-- An invariant that allows what a whole draw writes, its engine commands taken as wholes. -/
structure WholeDraws (E : Stop → State → Prop) (I : State → Prop) : Prop extends DrawWrites E I where
  chunk : ∀ s o v, o < s.cfg.scratchSize → I s → I (s.onDraw fun d => { d with scratch := d.scratch.write o v })
  clear : ∀ s, I s → I (s.onDraw fun d => { d with scratch := [] })
  transfer : ∀ c a, Leads E I I (startTransfer c a)
  sendByte : ∀ b, Leads E I I (epdSendByte b)
  refreshed : ∀ c, Leads E I I (refreshAndSleep c)

namespace WholeDraws

variable (h : WholeDraws E I)
include h

theorem drawCtxReset : Leads E I I drawCtxReset :=
  .get_bind fun _ => h.point <| h.setDraw.seq <| h.point <| h.setDraw.seq <| h.point <| h.setDraw.seq <|
    h.point <| h.setDraw.seq <| h.point <| h.setDraw.seq <| h.point <| h.setDraw.seq <| h.point <| .modify h.clear

theorem scratchWrite (o : Nat) (v : Byte) : Leads E I I (scratchWrite o v) :=
  .get_bind_eq fun u hu => .ite (fun _ => .raise fun _ hs => hs ▸ h.fault u _ nofun hu) fun ho =>
    .modify fun _ hs => hs ▸ h.chunk u o v (Nat.not_le.1 ho) hu

theorem streamChunk : Leads E I I streamChunk :=
  .get_bind fun _ => .forEach fun _ _ => h.point <| .get_bind fun s => (h.readReg _ _).bind fun _ =>
    .bind (.get_bind fun s => .ite (fun _ => .raise fun s => h.fault s _ nofun) fun _ => by
      split
      · exact .pure _
      · exact .raise fun s => h.fault s _ nofun) fun _ =>
    .forEach fun b _ => h.issue (h.sendByte b)

theorem zeroChunk : Leads E I I zeroChunk := .get_bind fun _ => .forEach fun _ _ => h.scratchWrite _ _

theorem loadChunk : Leads E I I loadChunk :=
  .get_bind fun _ => (h.readReg _ _).bind fun _ => h.event <| h.line <| .seq (.forEach fun _ _ => h.scratchWrite _ _) <|
    h.line h.setDraw

theorem enterChunk (c : Nat) : Leads E I I (enterChunk c) := .get_bind fun _ => h.setDraw

theorem imageChunks (twoPlanes : Bool) (p : Plane) : Leads E I I (imageChunks twoPlanes p) :=
  have chunk (c : Nat) : Leads E I I (imageChunk twoPlanes p c) :=
    h.line <| (h.enterChunk c).seq <| h.line <| .ite (fun _ => h.line <| h.loadChunk.seq <| h.line h.streamChunk)
      fun _ => h.line <| h.zeroChunk.seq <| h.line h.streamChunk
  .get_bind fun _ => .forLine (h.atLine _ _) chunk

theorem imagePass (twoPlanes : Bool) (p : Plane) : Leads E I I (imagePass twoPlanes p) :=
  h.line <| h.line <| .get_bind fun _ => .ite (fun _ => .pure _) fun _ => h.line <| h.setDraw.seq <|
    h.line <| (h.issue (h.transfer _ _)).seq <| h.imageChunks twoPlanes p

theorem imageEnd : Leads E I I imageEnd := h.line <| h.line <| (h.issue (h.refreshed _)).seq <| h.line <| .pure _

theorem imageAfterStart (twoPlanes : Bool) (p : Plane) : Leads E I I (imageAfterStart twoPlanes p) :=
  (h.imageChunks twoPlanes p).seq <| by
    cases p with
    | mono => exact (h.imagePass _ _).seq h.imageEnd
    | accent => exact h.imageEnd

theorem clientDrawImage (addr : U24) : Leads E I I (clientDrawImage addr) :=
  have supported (twoPlanes : Bool) : Leads E I I (drawSupported addr twoPlanes) :=
    h.line <| h.drawCtxReset.seq <| h.line <| h.line <| h.setDraw.seq <| (h.imagePass _ _).seq <|
      (h.imagePass _ _).seq h.imageEnd
  h.line <| .get_bind fun _ => .ite (fun _ => h.refused _) fun _ => h.line <| h.event <| h.line <| .ite
    (fun _ => h.line <| h.event <| h.line <| .pure _) fun _ => supported _

theorem screenChunks (cb : Byte) (p : Plane) : Leads E I I (screenChunks cb p) :=
  have row (c l : Nat) : Leads E I I (screenLine cb p c l) :=
    h.line <| h.setDraw.seq <| .get_bind fun _ => (h.readReg _ _).bind fun _ =>
      .seq (.forLine (h.atLine _ _) h.inks.callbackWord) <| h.line h.setDraw
  .get_bind fun _ => .forLine (h.atLine _ _) fun c => h.line <| (h.enterChunk c).seq <| h.line <| h.zeroChunk.seq <|
    .get_bind fun _ => .seq (.forLine (h.atLine _ _) (row c)) <| h.line h.streamChunk

theorem screenPass (cb : Byte) (p : Plane) : Leads E I I (screenPass cb p) :=
  h.line <| h.line <| h.setDraw.seq <| h.line <| (h.issue (h.transfer _ _)).seq <| h.screenChunks cb p

theorem screenEnd : Leads E I I screenEnd := h.line <| h.line <| (h.issue (h.refreshed _)).seq <| h.line <| .pure _

theorem screenAfterStart (cb : Byte) (p : Plane) : Leads E I I (screenAfterStart cb p) :=
  (h.screenChunks cb p).seq <| by
    cases p with
    | mono => exact (h.screenPass _ _).seq h.screenEnd
    | accent => exact h.screenEnd

theorem clientDrawScreen (cb : Byte) : Leads E I I (clientDrawScreen cb) :=
  h.line <| .get_bind fun _ => .ite (fun _ => h.refused _) fun _ => h.line <| h.drawCtxReset.seq <|
    (h.screenPass _ _).seq <| (h.screenPass _ _).seq h.screenEnd

end WholeDraws

/-- The whole draws issue their engine commands from rest to rest. -/
theorem EngineWrites.wholeDraws {off rising on drained : State → Prop} (h : EngineWrites E I off rising on drained)
    (hd : DrawWrites E I) (chunk : ∀ s o v, o < s.cfg.scratchSize → I s →
      I (s.onDraw fun d => { d with scratch := d.scratch.write o v }))
    (clear : ∀ s, I s → I (s.onDraw fun d => { d with scratch := [] })) : WholeDraws E I :=
  { hd with
    chunk := chunk, clear := clear, transfer := h.startTransfer, sendByte := h.epdSendByte,
    refreshed := h.refreshAndSleep }

/-- An invariant that allows everything the display half writes. -/
structure DisplayWrites (E : Stop → State → Prop) (I : State → Prop) : Prop extends DrawWrites E I where
  epd : ∀ s f, I s → I (s.onEpd f)
  wait : ∀ s w c, I s → E (.hold (.busyWait w c)) s
  refreshing : ∀ s m c, I s → E (.hold (.refreshPoll m c)) s
  chunk : ∀ s o v, o < s.cfg.scratchSize → I s → I (s.onDraw fun d => { d with scratch := d.scratch.write o v })
  clear : ∀ s, I s → I (s.onDraw fun d => { d with scratch := [] })

/-- Such an invariant holds in every phase of the display engine. -/
theorem DisplayWrites.engine (h : DisplayWrites E I) : EngineWrites E I I I I I :=
  have pins : PinWrites E I := { h with pins := fun s f _ => h.epd s f }
  have panel : PanelWrites E I :=
    { pins with
      hand := fun _ _ _ => h.awaitShifter.seq <| h.point <| .seq (.modify fun s => h.epd s _) <| h.point <|
        .modify fun s => h.epd s _ }
  { resting := pins, unpowered := pins, connected := panel, powered := panel, ending := pins,
    of_unpowered := fun _ _ hs => hs, of_powered := fun _ _ hs => hs, connect := fun s => h.epd s _,
    power := fun s => h.epd s _, drain := h.awaitShifter, disconnect := fun s => h.epd s _,
    unpower := fun s => h.epd s _, rest := fun _ hs => hs, wait := h.wait, refreshing := h.refreshing }

/-! ### The commands -/

/-- The lines of a command. -/
def commandBody : Instr → M Status
  | .radioInit => radioInit
  | .radioSetChannel ch => radioSetChannel ch
  | .radioSetTxPower dBm => radioSetTxPower dBm
  | .radioTransmit buf => radioTransmit buf
  | .radioEnableRx on => radioEnableRx on
  | .radioReceive dst => radioReceive dst
  | .radioFlush => radioFlush
  | .radioRxAckGetLast => radioRxAckGetLast
  | .radioSetFreqTest on => radioSetFreqTest on
  | .platformSetRadioEnabled on => platformSetRadioEnabled on
  | .epdSendTable id => epdSendTable id
  | .epdPowerUpIfNeeded => epdPowerUpIfNeeded
  | .epdShutdown => epdShutdown
  | .epdStartTransfer accent => startTransfer (.startTransfer accent) accent
  | .epdSendByte b => epdSendByte b
  | .epdRefreshAndSleep => refreshAndSleep .command
  | .clientDrawImage addr => clientDrawImage addr
  | .clientDrawScreen cb => clientDrawScreen cb
  | .clientSetWindowX start width => clientSetWindowX start width
  | .clientSetWindowY start height => clientSetWindowY start height
  | .clientLoadRawBitmap a => clientLoadRawBitmap a
  | .clientPrintBegin a => clientPrintBegin a
  | .clientWriteChar ch => clientWriteChar ch
  | .clientPrintEnd => clientPrintEnd
  | .clientPrintBarcode a => clientPrintBarcode a

/-- Every command is a run of its lines from line 1 on. -/
theorem exec_eq (i : Instr) (s : State) : exec i s = .next (runCommand i.opcode (commandBody i) s) := by
  cases i <;> rfl

theorem LinkWrites.commandBody (h : LinkWrites E I) (htransmit : ∀ buf, Leads E I I (radioTransmit buf)) {i : Instr}
    (hi : i.ofRadio = true)
    (hstore : ∀ dst, i = .radioReceive dst → ∀ s k v, k ≤ 255 → dst.toNat + k < s.cfg.hostMemSize → I s →
      I (s.onHostMem fun m => m.write (dst.toNat + k) v)) : Leads E I I (commandBody i) := by
  cases i with
  | radioInit => exact h.radioInit
  | radioSetChannel ch => exact h.radioSetChannel ch
  | radioSetTxPower dBm => exact h.radioSetTxPower dBm
  | radioTransmit buf => exact htransmit buf
  | radioEnableRx on => exact h.radioEnableRx on
  | radioReceive dst => exact h.radioReceive (hstore dst rfl)
  | radioFlush => exact h.radioFlush
  | radioRxAckGetLast => exact h.radioRxAckGetLast
  | radioSetFreqTest on => exact h.radioSetFreqTest on
  | platformSetRadioEnabled on => exact h.platformSetRadioEnabled on
  | _ => nomatch hi

theorem RadioWrites.commandBody (h : RadioWrites E I) {i : Instr} (hi : i.ofRadio = true)
    (hstore : ∀ dst, i = .radioReceive dst → ∀ s k v, k ≤ 255 → dst.toNat + k < s.cfg.hostMemSize → I s →
      I (s.onHostMem fun m => m.write (dst.toNat + k) v)) : Leads E I I (commandBody i) :=
  h.link.commandBody h.radioTransmit hi hstore

theorem InkWrites.commandBody (h : InkWrites E I) {i : Instr} (hi : i.drawOnly = true) :
    Leads E I I (commandBody i) := by
  cases i with
  | clientSetWindowX start width => exact h.clientSetWindowX start width
  | clientSetWindowY start height => exact h.clientSetWindowY start height
  | clientLoadRawBitmap a => exact h.clientLoadRawBitmap a
  | clientPrintBegin a => exact h.clientPrintBegin a
  | clientWriteChar ch => exact h.clientWriteChar ch
  | clientPrintEnd => exact h.clientPrintEnd
  | clientPrintBarcode a => exact h.clientPrintBarcode a
  | _ => nomatch hi

theorem EngineWrites.commandBody {off rising on drained : State → Prop} (h : EngineWrites E I off rising on drained)
    (hd : WholeDraws E I) {i : Instr} (hi : i.ofRadio = false) : Leads E I I (commandBody i) := by
  cases i with
  | epdSendTable id => exact h.epdSendTable id
  | epdPowerUpIfNeeded => exact h.epdPowerUpIfNeeded
  | epdShutdown => exact h.epdShutdown
  | epdStartTransfer accent => exact h.startTransfer _ accent
  | epdSendByte b => exact h.epdSendByte b
  | epdRefreshAndSleep => exact h.refreshAndSleep _
  | clientDrawImage addr => exact hd.clientDrawImage addr
  | clientDrawScreen cb => exact hd.clientDrawScreen cb
  | clientSetWindowX _ _ | clientSetWindowY _ _ | clientLoadRawBitmap _ | clientPrintBegin _ | clientWriteChar _
  | clientPrintEnd | clientPrintBarcode _ => exact hd.inks.commandBody rfl
  | _ => nomatch hi

theorem DisplayWrites.commandBody (h : DisplayWrites E I) {i : Instr} (hi : i.ofRadio = false) :
    Leads E I I (commandBody i) :=
  h.engine.commandBody (h.engine.wholeDraws h.toDrawWrites h.chunk h.clear) hi

/-! ### What a command leaves -/

/-- What a run settles to. -/
theorem Leads.settle {m : M Unit} (h : Leads E P Q m) {J : State → Prop} (hok : ∀ t, Q t → J (t.withHostPos .idle))
    (hfault : ∀ f t, E (.fault f) t → J ((t.withFault f).withHostPos .idle))
    (hrefuse : ∀ x t, E (.refuse x) t → J ((t.withRefusal x).withHostPos .idle))
    (hhold : ∀ p t, E (.hold p) t → J (t.withHostPos p)) {s : State} (hs : P s) : J (Machine.settle (m.run s)) := by
  have hend := h s hs
  match m.run s, hend with
  | .ok _ t, hend => exact hok t hend
  | .error (.fault f) t, hend => exact hfault f t hend
  | .error (.refuse x) t, hend => exact hrefuse x t hend
  | .error (.hold p) t, hend => exact hhold p t hend

/-! ### The holds -/

/-- The opcode of the command that goes on at a hold. -/
def heldOpcode : HostPos → Byte
  | .busyWait _ .command => 0x11#8
  | .busyWait _ (.startTransfer _) => 0x13#8
  | .busyWait _ (.drawImage _ _) | .refreshPoll _ .drawImage => 0x20#8
  | .busyWait _ (.drawScreen _ _) | .refreshPoll _ .drawScreen => 0x21#8
  | .refreshPoll _ .command => 0x15#8
  | .txPoll _ | .idle | .line _ _ => 0x04#8

/-- The lines with which the host goes on at a hold; at no other position does it go on. -/
def heldBody : HostPos → M Status
  | .txPoll polls => transmitLoop polls
  | .busyWait w .command => do
    powerUpFrom w .command
    pure .ok
  | .busyWait w (.startTransfer a) => do
    powerUpFrom w (.startTransfer a)
    startTransferTail a
  | .busyWait w (.drawImage twoPlanes p) => do
    command 0x13#8 (do
      powerUpFrom w (.drawImage twoPlanes p)
      startTransferTail (isAccent p))
    imageAfterStart twoPlanes p
  | .busyWait w (.drawScreen cb p) => do
    command 0x13#8 (do
      powerUpFrom w (.drawScreen cb p)
      startTransferTail (isAccent p))
    screenAfterStart cb p
  | .refreshPoll m .command => refreshFrom .command m
  | .refreshPoll m .drawImage => do
    command 0x15#8 (refreshFrom .drawImage m)
    atLine 0x20#8 23
    pure .ok
  | .refreshPoll m .drawScreen => do
    command 0x15#8 (refreshFrom .drawScreen m)
    atLine 0x21#8 17
    pure .ok
  | .idle | .line _ _ => pure .ok

/-- The positions between two steps at which the host goes on. -/
def HostPos.IsHold (p : HostPos) : Prop := p ≠ .idle ∧ ∀ op n, p ≠ .line op n

/-- The host goes on at a hold with the lines that are left. -/
theorem goOn_eq {s : State} (h : s.hostPos.IsHold) :
    goOn s = resumeCommand (heldOpcode s.hostPos) (fairWhenUnscheduled >>= fun _ => heldBody s.hostPos) s := by
  obtain ⟨hidle, hline⟩ := h
  rw [goOn]
  generalize s.hostPos = p at hidle hline
  cases p with
  | idle => exact absurd rfl hidle
  | line op n => exact absurd rfl (hline op n)
  | txPoll polls => rfl
  | busyWait w caller => cases caller <;> rfl
  | refreshPoll m caller => cases caller <;> rfl

theorem RadioWrites.heldBody (h : RadioWrites E I) (polls : Nat) : Leads E I I (heldBody (.txPoll polls)) :=
  h.transmitLoop polls

section Held

variable {off rising on drained : State → Prop} (h : EngineWrites E I off rising on drained) (hd : WholeDraws E I)
include h hd

theorem EngineWrites.heldWait (w : BusyWait) (c : PowerCaller) : Leads E rising I (heldBody (.busyWait w c)) := by
  have up := h.powerUpFrom w c
  cases c with
  | command => exact (h.rested up).seq (.pure _)
  | startTransfer a => exact up.seq (h.startTransferTail a)
  | drawImage twoPlanes p =>
    exact (h.resting.command <| up.seq (h.startTransferTail _)).seq (hd.imageAfterStart twoPlanes p)
  | drawScreen cb p => exact (h.resting.command <| up.seq (h.startTransferTail _)).seq (hd.screenAfterStart cb p)

omit hd in
theorem EngineWrites.heldRefresh (m : U16) (c : RefreshCaller) : Leads E on I (heldBody (.refreshPoll m c)) := by
  have refresh := h.refreshFrom c m
  cases c with
  | command => exact refresh
  | drawImage => exact (h.resting.command refresh).seq <| h.resting.line <| .pure _
  | drawScreen => exact (h.resting.command refresh).seq <| h.resting.line <| .pure _

end Held

theorem DisplayWrites.heldBody (h : DisplayWrites E I) {p : HostPos} (hp : ∀ polls, p ≠ .txPoll polls) :
    Leads E I I (heldBody p) := by
  cases p with
  | txPoll polls => exact absurd rfl (hp polls)
  | busyWait w c => exact h.engine.heldWait (h.engine.wholeDraws h.toDrawWrites h.chunk h.clear) w c
  | refreshPoll m c => exact h.engine.heldRefresh m c
  | idle => exact .pure _
  | line _ _ => exact .pure _

/-! ### The kinds of step -/

/-- Everything a step of a block that no mark has stopped can be. `f` takes the schedule's entry, where it has one. -/
inductive StepKind (s : State) : State → Prop
  | start : s.started = false → StepKind s (modelStart s)
  | stay (op : Byte) (n : Nat) : s.hostPos = .line op n → StepKind s s
  | goOn : s.hostPos.IsHold → StepKind s (goOn s)
  | agent (m : Move) (f : Env → Env) : s.hostPos = .idle → StepKind s (settle ((takeMove m).run (s.onEnv f)))
  | wait (f : Env → Env) : s.hostPos = .idle → StepKind s (settle (fairWhenUnscheduled.run (s.onEnv f)))
  | store (a : U16) (b : Byte) (f : Env → Env) (q : List HostAct) : s.hostPos = .idle →
      StepKind s (settle ((hostWrite a.toNat b).run ((s.onEnv f).withQueue q)))
  | refused (x : Refusal) (f : Env → Env) (q : List HostAct) : s.hostPos = .idle →
      StepKind s (((s.onEnv f).withQueue q).withRefusal x)
  | command (i : Instr) (f : Env → Env) (q : List HostAct) : s.hostPos = .idle →
      StepKind s (runCommand i.opcode (commandBody i) ((s.onEnv f).withQueue q))

/-- The host's turn, on the state with the schedule's entry taken. -/
theorem stepKind_of_hostTurn {s t : State} (f : Env → Env) (hpos : s.hostPos = .idle)
    (h : hostTurn (s.onEnv f) = .settled t ∨ ∃ i u, hostTurn (s.onEnv f) = .run i u ∧ exec i u = .next t) :
    StepKind s t := by
  unfold hostTurn at h
  split at h
  · obtain h | ⟨i, u, h, -⟩ := h
    · exact Turn.settled.inj h ▸ .wait f hpos
    · exact nomatch h
  · next a b q _ =>
    obtain h | ⟨i, u, h, -⟩ := h
    · exact Turn.settled.inj h ▸ .store a b f q hpos
    · exact nomatch h
  · next w q _ =>
    split at h
    · obtain h | ⟨i, u, h, hexec⟩ := h
      · exact nomatch h
      · obtain ⟨rfl, rfl⟩ := Turn.run.inj h
        rw [exec_eq] at hexec
        exact Host.Outcome.next.inj hexec ▸ .command _ f q hpos
    · obtain h | ⟨i, u, h, -⟩ := h
      · exact Turn.settled.inj h ▸ .refused _ f q hpos
      · exact nomatch h

theorem stepKind_of_step {s t : State} (h : step s = .next t) : s.Unmarked ∧ StepKind s t := by
  obtain ⟨hfault, hrefuse, hturn⟩ := step_cases h
  refine ⟨⟨hfault, hrefuse⟩, ?_⟩
  have hturn : nextTurn s = .settled t ∨ ∃ i u, nextTurn s = .run i u ∧ exec i u = .next t := by
    obtain ⟨u, hu, rfl⟩ | hrun := hturn
    · exact .inl hu
    · exact .inr hrun
  unfold nextTurn at hturn
  split at hturn
  · next hstart =>
    obtain h | ⟨i, u, h, -⟩ := hturn
    · exact Turn.settled.inj h ▸ .start hstart
    · exact nomatch h
  · have held (hpos : s.hostPos.IsHold)
        (h : Turn.settled (goOn s) = .settled t ∨ ∃ i u, Turn.settled (goOn s) = .run i u ∧ exec i u = .next t) :
        StepKind s t := by
      obtain h | ⟨i, u, h, -⟩ := h
      · exact Turn.settled.inj h ▸ .goOn hpos
      · exact nomatch h
    split at hturn
    case h_1 hpos =>
      split at hturn
      · exact stepKind_of_hostTurn id hpos hturn
      · exact stepKind_of_hostTurn _ hpos hturn
      · obtain h | ⟨i, u, h, -⟩ := hturn
        · exact Turn.settled.inj h ▸ .agent _ _ hpos
        · exact nomatch h
    case h_2 op n hpos =>
      obtain h | ⟨i, u, h, -⟩ := hturn
      · have hself : goOn s = s := by rw [goOn, hpos]
        exact Turn.settled.inj h ▸ hself.symm ▸ .stay op n hpos
      · exact nomatch h
    case h_3 hpos => exact held (hpos ▸ ⟨nofun, nofun⟩) hturn
    case h_4 hpos => exact held (hpos ▸ ⟨nofun, nofun⟩) hturn
    case h_5 hpos => exact held (hpos ▸ ⟨nofun, nofun⟩) hturn

end Sys2Proof.Machine

/-! PROOF. The frames and the invariants that hold however a command ends: the byte spaces (R22, R23), the trace and the
record (R1, R21), what each half leaves alone, and that the primitives never erase (R96). -/

namespace Sys2Proof.Machine

variable {α : Type} {I : State → Prop}

/-! ### Invariants that hold at every stop -/

/-- Every stop keeps the invariant. -/
def anyStop (I : State → Prop) : Stop → State → Prop := fun _ => I

theorem LineWrites.runCommand (h : LineWrites (anyStop I) I) (hfault : ∀ s f, I s → I (s.withFault f))
    (hrefuse : ∀ s x, I s → I (s.withRefusal x)) {body : M Status} (hb : Leads (anyStop I) I I body) (op : Byte)
    {s : State} (hs : I s) : I (runCommand op body s) :=
  (h.command hb).settle (fun t ht => h.pos t _ ht) (fun f t ht => h.pos _ _ (hfault t f ht))
    (fun x t ht => h.pos _ _ (hrefuse t x ht)) (fun p t ht => h.pos t p ht) (h.pos s _ hs)

/-- An invariant that allows everything the block may write. -/
structure BlockWrites (I : State → Prop) : Prop where
  radio : RadioWrites (anyStop I) I
  display : DisplayWrites (anyStop I) I
  store : ∀ s a v, a < s.cfg.hostMemSize → I s → I (s.onHostMem fun m => m.write a v)
  mark : ∀ s f, I s → I (s.withFault f)
  refusal : ∀ s x, I s → I (s.withRefusal x)
  queue : ∀ s q, I s → I (s.withQueue q)
  started : ∀ s, I s → I s.withStarted

namespace BlockWrites

variable (h : BlockWrites I)
include h

theorem settle {m : M Unit} (hm : Leads (anyStop I) I I m) {s : State} (hs : I s) : I (settle (m.run s)) :=
  hm.settle (fun t ht => h.display.pos t _ ht) (fun f t ht => h.display.pos _ _ (h.mark t f ht))
    (fun x t ht => h.display.pos _ _ (h.refusal t x ht)) (fun p t ht => h.display.pos t p ht) hs

theorem commandBody (i : Instr) : Leads (anyStop I) I I (commandBody i) := by
  cases hi : i.ofRadio with
  | true => exact h.radio.commandBody hi fun dst _ s k v _ hin => h.store s (dst.toNat + k) v hin
  | false => exact h.display.commandBody hi

theorem heldBody (p : HostPos) : Leads (anyStop I) I I (heldBody p) := by
  by_cases hp : ∃ polls, p = .txPoll polls
  · obtain ⟨polls, rfl⟩ := hp
    exact h.radio.heldBody polls
  · exact h.display.heldBody fun polls heq => hp ⟨polls, heq⟩

theorem hostWrite (a : Nat) (v : Byte) : Leads (anyStop I) I I (hostWrite a v) :=
  .get_bind_eq fun u hu => .ite (fun _ => .raise fun _ hs => hs ▸ hu) fun hin =>
    .modify fun _ hs => hs ▸ h.store u a v (Nat.not_le.1 hin) hu

/-- Every step keeps what allows everything the block may write. -/
theorem step {s t : State} (hs : I s) (hstep : step s = .next t) : I t := by
  have line := h.display.toLineWrites
  cases (stepKind_of_step hstep).2 with
  | start _ =>
    rw [modelStart]
    split
    · exact h.started s hs
    · exact h.refusal s _ hs
  | stay _ _ _ => exact hs
  | goOn hpos =>
    rw [goOn_eq hpos]
    exact h.settle (line.command (line.fairWhenUnscheduled.seq (h.heldBody _))) hs
  | agent m f _ => exact h.settle (line.move m) (line.env s f hs)
  | wait f _ => exact h.settle line.fairWhenUnscheduled (line.env s f hs)
  | store a b f q _ => exact h.settle (h.hostWrite _ b) (h.queue _ q (line.env s f hs))
  | refused x f q _ => exact h.refusal _ x (h.queue _ q (line.env s f hs))
  | command i f q _ => exact h.settle (line.command (h.commandBody i)) (line.pos _ _ (h.queue _ q (line.env s f hs)))

end BlockWrites

/-! ### The trace and the record -/

/-- The record is `s`'s and the trace goes on from `s`'s (R1, R21). -/
def State.Extends (s t : State) : Prop := t.cfg = s.cfg ∧ s.trace <+: t.trace

theorem State.extends_writes (s : State) : BlockWrites s.Extends := by
  have agents : AgentWrites (anyStop s.Extends) s.Extends :=
    { fault := fun _ _ _ h => h, emit := fun _ _ h => ⟨h.1, h.2.trans (List.prefix_append _ _)⟩,
      irq := fun _ _ h => h, raised := fun _ h => h, agentArb := fun _ _ _ h => h, agentRing := fun _ _ _ h => h,
      frame := fun _ _ _ _ h => h, byteOut := fun _ _ _ h => h, disconnected := fun _ _ _ h => h }
  have line : LineWrites (anyStop s.Extends) s.Extends :=
    { agents with
      move := agents.takeMove, refuse := fun _ _ h => h, pos := fun _ _ h => h, env := fun _ _ h => h,
      status := fun _ _ h => h }
  exact
    { radio :=
        { line, agents with
          radio := fun _ _ h => h, arb := fun _ _ h => h, ring := fun _ _ _ h => h, xreg := fun _ _ _ h => h,
          res := fun _ _ h => h, poll := fun _ _ h => h }
      display :=
        { line with
          draw := fun _ _ _ h => h, outside := fun _ _ h => h, ink := fun _ _ _ _ _ _ h => h, epd := fun _ _ h => h,
          wait := fun _ _ _ h => h, refreshing := fun _ _ _ h => h, chunk := fun _ _ _ _ h => h,
          clear := fun _ h => h }
      store := fun _ _ _ _ h => h, mark := fun _ _ h => h, refusal := fun _ _ h => h, queue := fun _ _ h => h,
      started := fun _ h => h }

/-! ### The byte spaces -/

theorem CellsAt.write {p : Nat → Prop} {m : Memory} (h : CellsAt p m) {k : Nat} (hk : p k) (v : Byte) :
    CellsAt p (m.write k v) := by
  induction m with
  | nil => exact List.forall_mem_singleton.2 hk
  | cons c m ih =>
    obtain ⟨a, b⟩ := c
    obtain ⟨ha, hm⟩ := List.forall_mem_cons.1 h
    rw [Memory.write]
    split
    · exact List.forall_mem_cons.2 ⟨hk, h⟩
    · split
      · exact List.forall_mem_cons.2 ⟨hk, hm⟩
      · exact List.forall_mem_cons.2 ⟨ha, ih hm⟩

theorem CellsAt.writeBytes {p : Nat → Prop} {m : Memory} (h : CellsAt p m) {k : Nat} {vs : List Byte}
    (hk : ∀ i, i < vs.length → p (k + i)) : CellsAt p (m.writeBytes k vs) := by
  induction vs generalizing m k with
  | nil => exact h
  | cons v vs ih =>
    refine ih (h.write (hk 0 (Nat.zero_lt_succ _)) v) fun i hi => ?_
    rw [Nat.add_assoc, Nat.add_comm 1 i]
    exact hk (i + 1) (Nat.succ_lt_succ hi)

theorem length_le_of_frameShape {p : Params} {f : List Byte} (h : frameShape p f = true) : f.length ≤ slotSize p := by
  cases f with
  | nil => exact nomatch h
  | cons len rest =>
    have hlen := of_decide_eq_true h
    omega

/-- A byte space's write inside its bounds keeps the space in order. -/
theorem State.MemoriesOk.scratchWrite {s : State} (h : s.MemoriesOk) {o : Nat} (ho : o < s.cfg.scratchSize) (v : Byte) :
    (s.onDraw fun d => { d with scratch := d.scratch.write o v }).MemoriesOk := by
  obtain ⟨hostWf, ringWf, scratchWf, xregWf, hostAt, ringAt, scratchAt, xregAt⟩ := h
  exact ⟨hostWf, ringWf, Memory.wf_write scratchWf o v, xregWf, hostAt, ringAt, scratchAt.write ho v, xregAt⟩

theorem State.MemoriesOk.hostWrite {s : State} (h : s.MemoriesOk) {a : Nat} (ha : a < s.cfg.hostMemSize) (v : Byte) :
    (s.onHostMem fun m => m.write a v).MemoriesOk := by
  obtain ⟨hostWf, ringWf, scratchWf, xregWf, hostAt, ringAt, scratchAt, xregAt⟩ := h
  exact ⟨Memory.wf_write hostWf a v, ringWf, scratchWf, xregWf, hostAt.write ha v, ringAt, scratchAt, xregAt⟩

theorem State.MemoriesOk.busWrite {s : State} (h : s.MemoriesOk) (a v : Byte) :
    (s.onXreg fun m => m.write a.toNat v).MemoriesOk := by
  obtain ⟨hostWf, ringWf, scratchWf, xregWf, hostAt, ringAt, scratchAt, xregAt⟩ := h
  exact ⟨hostWf, ringWf, scratchWf, Memory.wf_write xregWf _ v, hostAt, ringAt, scratchAt, xregAt.write a.isLt v⟩

theorem State.MemoriesOk.frame {s : State} (h : s.MemoriesOk) (w : Fin 3) {f : List Byte}
    (hf : frameShape s.cfg f = true) :
    (s.onRing fun r => { r with cells := r.cells.writeBytes (ringAddr w 0) f }).MemoriesOk := by
  obtain ⟨hostWf, ringWf, scratchWf, xregWf, hostAt, ringAt, scratchAt, xregAt⟩ := h
  have hin (i : Nat) (hi : i < f.length) : ∃ r o, o < slotSize s.cfg ∧ ringAddr w 0 + i = ringAddr r o :=
    ⟨w, i, Nat.lt_of_lt_of_le hi (length_le_of_frameShape hf), by rw [ringAddr, ringAddr, Nat.add_zero]⟩
  exact ⟨hostWf, Memory.wf_writeBytes ringWf _ f, scratchWf, xregWf, hostAt, ringAt.writeBytes hin, scratchAt, xregAt⟩

theorem State.memoriesOk_of_ring {s : State} (h : s.MemoriesOk) {f : Ring → Ring} (hf : ∀ r, (f r).cells = r.cells) :
    (s.onRing f).MemoriesOk := by
  rw [State.MemoriesOk, State.onRing_ring, hf]
  exact h

theorem State.memoriesOk_of_draw {s : State} (h : s.MemoriesOk) {f : Draw → Draw} (hf : ∀ d, (f d).scratch = d.scratch) :
    (s.onDraw f).MemoriesOk := by
  rw [State.MemoriesOk, State.onDraw_draw, hf]
  exact h

theorem State.memoriesOk_writes : BlockWrites State.MemoriesOk := by
  have agents : AgentWrites (anyStop State.MemoriesOk) State.MemoriesOk :=
    { fault := fun _ _ _ h => h, emit := fun _ _ h => h, irq := fun _ _ h => h, raised := fun _ h => h,
      agentArb := fun _ _ _ h => h, agentRing := fun _ _ hf h => State.memoriesOk_of_ring h fun r => (hf r).1,
      frame := fun _ w _ hf h => h.frame w hf, byteOut := fun _ _ _ h => h, disconnected := fun _ _ _ h => h }
  have line : LineWrites (anyStop State.MemoriesOk) State.MemoriesOk :=
    { agents with
      move := agents.takeMove, refuse := fun _ _ h => h, pos := fun _ _ h => h, env := fun _ _ h => h,
      status := fun _ _ h => h }
  exact
    { radio :=
        { line, agents with
          radio := fun _ _ h => h, arb := fun _ _ h => h, ring := fun _ _ hf h => State.memoriesOk_of_ring h hf,
          xreg := fun _ a v h => h.busWrite a v, res := fun _ _ h => h, poll := fun _ _ h => h }
      display :=
        { line with
          draw := fun _ _ hf h => State.memoriesOk_of_draw h hf, outside := fun _ _ h => h,
          ink := fun _ _ _ _ ho _ h => h.scratchWrite ho _, epd := fun _ _ h => h, wait := fun _ _ _ h => h,
          refreshing := fun _ _ _ h => h, chunk := fun _ _ v ho h => h.scratchWrite ho v,
          clear := fun _ h =>
            have ⟨hostWf, ringWf, _, xregWf, hostAt, ringAt, _, xregAt⟩ := h
            ⟨hostWf, ringWf, rfl, xregWf, hostAt, ringAt, nofun, xregAt⟩ }
      store := fun _ _ v ha h => h.hostWrite ha v, mark := fun _ _ h => h, refusal := fun _ _ h => h,
      queue := fun _ _ h => h, started := fun _ h => h }

/-! ### What each half leaves alone -/

/-- The display half is `s`'s but for a byte that left the shifter, and so is HOST outside `touched`. -/
def State.DisplayLeft (touched : Nat → Prop) (s t : State) : Prop :=
  t.draw = s.draw ∧ t.epd = { s.epd with spiBusy := t.epd.spiBusy } ∧
    (t.epd.spiBusy = true → s.epd.spiBusy = true) ∧ ∀ a, ¬touched a → t.hostMem.read a = s.hostMem.read a

theorem State.displayLeft_refl (touched : Nat → Prop) (s : State) : s.DisplayLeft touched s :=
  ⟨rfl, rfl, id, fun _ _ => rfl⟩

theorem State.displayLeft_writes (touched : Nat → Prop) (s : State) :
    RadioWrites (anyStop (s.DisplayLeft touched)) (s.DisplayLeft touched) :=
  have agents : AgentWrites (anyStop (s.DisplayLeft touched)) (s.DisplayLeft touched) :=
    { fault := fun _ _ _ h => h, emit := fun _ _ h => h, irq := fun _ _ h => h, raised := fun _ h => h,
      agentArb := fun _ _ _ h => h, agentRing := fun _ _ _ h => h, frame := fun _ _ _ _ h => h,
      byteOut := fun t _ _ h =>
        have ⟨hdraw, hepd, _, hhost⟩ := h
        ⟨hdraw, by rw [State.onEpd_epd, hepd], nofun, hhost⟩,
      disconnected := fun _ _ _ h => h }
  { agents with
    move := agents.takeMove, refuse := fun _ _ h => h, pos := fun _ _ h => h, env := fun _ _ h => h,
    status := fun _ _ h => h, radio := fun _ _ h => h, arb := fun _ _ h => h, ring := fun _ _ _ h => h,
    xreg := fun _ _ _ h => h, res := fun _ _ h => h, poll := fun _ _ h => h }

/-- The radio half's own registers are `s`'s, but for what the agents write. -/
structure State.RadioLeft (s t : State) : Prop where
  radio : t.radio = { s.radio with irqRaisedRx := t.radio.irqRaisedRx }
  xreg : t.xreg = s.xreg
  hostMem : t.hostMem = s.hostMem
  readIdx : t.ring.readIdx = s.ring.readIdx
  rxEnabled : t.arb.rxEnabled = s.arb.rxEnabled
  txFrame : t.arb.txFrame = s.arb.txFrame
  txMinBatt : t.arb.txMinBatt = s.arb.txMinBatt
  value : t.res.value = s.res.value
  lqi : t.res.lqi = s.res.lqi
  rssi : t.res.rssi = s.res.rssi

theorem State.radioLeft_refl (s : State) : s.RadioLeft s := ⟨rfl, rfl, rfl, rfl, rfl, rfl, rfl, rfl, rfl, rfl⟩

theorem State.radioLeft_writes (s : State) : DisplayWrites (anyStop s.RadioLeft) s.RadioLeft :=
  have agents : AgentWrites (anyStop s.RadioLeft) s.RadioLeft :=
    { fault := fun _ _ _ h => h, emit := fun _ _ h => { h with }, irq := fun _ _ h => { h with },
      raised := fun _ h => { h with radio := by rw [State.onRadio_radio, h.radio] },
      agentArb := fun t f hf h =>
        have ⟨hrx, hframe, hbatt⟩ := hf t.arb
        { h with
          rxEnabled := hrx.trans h.rxEnabled, txFrame := hframe.trans h.txFrame, txMinBatt := hbatt.trans h.txMinBatt },
      agentRing := fun t f hf h => { h with readIdx := (hf t.ring).2.trans h.readIdx },
      frame := fun _ _ _ _ h => { h with }, byteOut := fun _ _ _ h => { h with }, disconnected := fun _ _ _ h => h }
  { agents with
    move := agents.takeMove, refuse := fun _ _ h => h, pos := fun _ _ h => { h with },
    env := fun _ _ h => { h with }, status := fun _ _ h => { h with }, draw := fun _ _ _ h => { h with },
    outside := fun _ _ h => { h with }, ink := fun _ _ _ _ _ _ h => { h with }, epd := fun _ _ h => { h with },
    wait := fun _ _ _ h => h, refreshing := fun _ _ _ h => h, chunk := fun _ _ _ _ h => { h with },
    clear := fun _ h => { h with } }

/-- Every bit set in `s`'s scratch buffer is set, and no cell written there has lost its value. -/
def State.InkKept (s t : State) : Prop :=
  ∀ o b, s.draw.scratch.read o = some b → ∃ b', t.draw.scratch.read o = some b' ∧ b ||| b' = b'

theorem State.inkKept_refl (s : State) : s.InkKept s := fun _ b h => ⟨b, h, BitVec.or_self⟩

/-- Ink on a written cell keeps its bits (R96). -/
theorem State.InkKept.ink {s t : State} (h : s.InkKept t) {o : Nat} {b : Byte} (m : Byte)
    (hb : t.draw.scratch.read o = some b) :
    s.InkKept (t.onDraw fun d => { d with scratch := d.scratch.write o (b ||| m) }) := by
  intro o' b' h'
  obtain ⟨c, hc, hor⟩ := h o' b' h'
  rw [State.onDraw_draw, Memory.read_write]
  split
  · next heq =>
    obtain rfl : c = b := Option.some.inj (hc.symm.trans (heq ▸ hb))
    exact ⟨_, rfl, by rw [← BitVec.or_assoc, hor]⟩
  · exact ⟨c, hc, hor⟩

theorem State.inkKept_writes (s : State) : DrawWrites (anyStop s.InkKept) s.InkKept :=
  have agents : AgentWrites (anyStop s.InkKept) s.InkKept :=
    { fault := fun _ _ _ h => h, emit := fun _ _ h => h, irq := fun _ _ h => h, raised := fun _ h => h,
      agentArb := fun _ _ _ h => h, agentRing := fun _ _ _ h => h, frame := fun _ _ _ _ h => h,
      byteOut := fun _ _ _ h => h, disconnected := fun _ _ _ h => h }
  { agents with
    move := agents.takeMove, refuse := fun _ _ h => h, pos := fun _ _ h => h, env := fun _ _ h => h,
    status := fun _ _ h => h, draw := fun t f hf h => by rw [State.InkKept, State.onDraw_draw, hf]; exact h,
    outside := fun _ _ h => h, ink := fun _ _ _ m _ hb h => h.ink m hb }

end Sys2Proof.Machine

namespace Sys2Proof

open Sys2Proof.Machine

/-- Settles O56: every write of a byte space is inside its bounds and keeps its canonical form. -/
theorem stepKeepsMemoriesOk : Obligations.StepKeepsMemoriesOk := fun _ _ hs hstep => State.memoriesOk_writes.step hs hstep

/-- Settles O60: no write touches the record, and an event goes to the end of the trace. -/
theorem stepAppendsToTheTrace : Obligations.StepAppendsToTheTrace := by
  intro s t hstep
  obtain ⟨hcfg, ev, hev⟩ := s.extends_writes.step ⟨rfl, List.prefix_refl _⟩ hstep
  exact ⟨hcfg, ev, hev.symm⟩

/-- Settles O53: the radio half's writes leave the display half, and RADIO_RECEIVE stores from its operand on. -/
theorem radioCommandsLeaveTheDisplay : Obligations.RadioCommandsLeaveTheDisplay := by
  intro i s t hi hexec
  obtain rfl := Host.Outcome.next.inj ((exec_eq i s).symm.trans hexec)
  have h := s.displayLeft_writes fun a => ∃ dst, i = .radioReceive dst ∧ dst.toNat ≤ a ∧ a ≤ dst.toNat + 255
  have hbody := h.commandBody hi fun dst hdst u k v hk _ hu => by
    obtain ⟨hdraw, hepd, hbusy, hhost⟩ := hu
    refine ⟨hdraw, hepd, hbusy, fun a ha => ?_⟩
    have hne : a ≠ dst.toNat + k := by
      rintro rfl
      exact ha ⟨dst, hdst, by omega, by omega⟩
    rw [State.onHostMem_hostMem, Memory.read_write_other _ _ hne, hhost a ha]
  obtain ⟨hdraw, hepd, hbusy, hhost⟩ :=
    h.runCommand (fun _ _ h => h) (fun _ _ h => h) hbody i.opcode (s.displayLeft_refl _)
  refine ⟨hdraw, hepd, hbusy, fun a ha => hhost a ?_⟩
  rintro ⟨dst, rfl, hlow, hhigh⟩
  have := ha dst rfl
  omega

/-- Settles O54: the display half's writes and the agents' leave those registers of the radio half. -/
theorem displayCommandsLeaveTheRadio : Obligations.DisplayCommandsLeaveTheRadio := by
  intro i s t hi hexec
  obtain rfl := Host.Outcome.next.inj ((exec_eq i s).symm.trans hexec)
  have h := s.radioLeft_writes
  obtain ⟨hradio, hxreg, hhost, hread, hrx, hframe, hbatt, hvalue, hlqi, hrssi⟩ :=
    h.toLineWrites.runCommand (fun _ _ h => { h with }) (fun _ _ h => { h with }) (h.commandBody hi) i.opcode
      s.radioLeft_refl
  exact ⟨hradio, hxreg, hhost, hread, hrx, hframe, hbatt, hvalue, hlqi, hrssi⟩

/-- Settles O55: the only scratch write of a primitive ORs a mask into a written cell. -/
theorem primitivesNeverEraseInk : Obligations.PrimitivesNeverEraseInk := by
  intro i s t hi hexec
  obtain rfl := Host.Outcome.next.inj ((exec_eq i s).symm.trans hexec)
  have h := s.inkKept_writes
  exact h.runCommand (fun _ _ h => h) (fun _ _ h => h) (h.inks.commandBody hi) i.opcode s.inkKept_refl

end Sys2Proof

/-! PROOF. The receive and transmit state machine (R11, R65). Between the lines the arbiter is in one of four phases: at
rest, being armed for receive, stopped, or transmitting; each is a predicate on the arbiter alone, so that only the lines
that write the arbiter count. -/

namespace Sys2Proof.Machine

variable {α β : Type} {p q : Arbiter → Prop}

/-! ### The phases -/

/-- `p` holds of the state's arbiter. -/
abbrev State.ArbIn (p : Arbiter → Prop) (s : State) : Prop := p s.arb

/-- Between two commands: armed in the RX state, and not in the TX state (R65). -/
def Arbiter.Rests (a : Arbiter) : Prop := (a.radioState = .rx → a.rxArmed = true) ∧ a.radioState ≠ .tx

/-- Armed for receive, and not yet in the RX state (R60). -/
def Arbiter.Arming (a : Arbiter) : Prop := a.rxArmed = true ∧ a.radioState = .idle

/-- Disarmed, and the state still to be left (R61). -/
def Arbiter.Stopping (a : Arbiter) : Prop := a.radioState ≠ .tx

/-- In the TX state, RADIO_TRANSMIT's own (R70). -/
def Arbiter.Transmits (a : Arbiter) : Prop := a.radioState = .tx

/-- Where a command may hold: in the TX state exactly at RADIO_TRANSMIT's polls. A fault or a refusal ends the run. -/
def arbiterStop : Stop → State → Prop
  | .hold p, s => (s.arb.radioState = .rx → s.arb.rxArmed = true) ∧ (s.arb.radioState = .tx ↔ ∃ polls, p = .txPoll polls)
  | .fault _, _ => True
  | .refuse _, _ => True

/-- A phase that the agents' own writes of the arbiter keep. -/
structure Arbiter.Phase (p : Arbiter → Prop) : Prop where
  frame : ∀ a, p a → a.rxArmed = true → a.radioState = .rx → p { a with rxArmed := false, radioState := .idle }
  sent : ∀ a, p a → p { a with txDone := true }
  started : ∀ a, p a → a.rxArmed = false → a.radioState ≠ .tx → p { a with rxArmed := true, radioState := .rx }

theorem Arbiter.rests_phase : Phase Rests :=
  ⟨fun _ _ _ _ => ⟨nofun, nofun⟩, fun _ h => h, fun _ _ _ _ => ⟨fun _ => rfl, nofun⟩⟩

theorem Arbiter.arming_phase : Phase Arming where
  frame _ h _ hrx := nomatch h.2.symm.trans hrx
  sent _ h := h
  started _ h hoff _ := nomatch h.1.symm.trans hoff

theorem Arbiter.stopping_phase : Phase Stopping := ⟨fun _ _ _ _ => nofun, fun _ h => h, fun _ _ _ _ => nofun⟩

theorem Arbiter.transmits_phase : Phase Transmits where
  frame _ h _ hrx := nomatch h.symm.trans hrx
  sent _ h := h
  started _ h _ hne := absurd h hne

/-! ### Lines that leave the arbiter alone -/

theorem arbiter_stepWrites (p : Arbiter → Prop) : StepWrites arbiterStop (State.ArbIn p) :=
  { fault := fun _ _ _ _ => trivial, emit := fun _ _ h => h }

theorem Leads.setArb {E : Stop → State → Prop} {f : Arbiter → Arbiter} (h : ∀ a, p a → q (f a)) :
    Leads E (State.ArbIn p) (State.ArbIn q) (Machine.setArb f) := .modify fun s => h s.arb

/-- `RxStartIfNeeded()` goes from `p` over `q`, where receive is armed and not yet on, back to `p` (R60). -/
theorem arbiter_rxStart {gap : M Unit} (hp : Leads arbiterStop (State.ArbIn p) (State.ArbIn p) gap)
    (hq : Leads arbiterStop (State.ArbIn q) (State.ArbIn q) gap)
    (arm : ∀ a, p a → a.rxArmed = false → a.radioState ≠ .tx → q { a with rxArmed := true })
    (on : ∀ a, q a → p { a with radioState := .rx }) :
    Leads arbiterStop (State.ArbIn p) (State.ArbIn p) (rxStart gap) :=
  .atomic (fun _ _ h => h) <| hp.seq <| .get_bind_eq fun u hu => .ite
    (fun _ => .bind (.readReg fun _ _ => trivial) fun _ => .ite
      (fun hguard => .seq (.modify (by rintro _ rfl; exact arm _ hu hguard.2.1 hguard.2.2)) <| hq.seq <|
        .get_bind fun _ => ((arbiter_stepWrites q).readReg _ _).bind fun _ =>
        ((arbiter_stepWrites q).emitted _).seq <| hq.seq <| ((arbiter_stepWrites q).emitted _).seq <|
        hq.seq (.setArb on))
      fun _ => .weaken (.pure _) (by rintro _ rfl; exact hu))
    fun _ => .weaken (.pure _) (by rintro _ rfl; exact hu)

theorem Arbiter.Phase.takeMove (h : Phase p) (m : Move) :
    Leads arbiterStop (State.ArbIn p) (State.ArbIn p) (takeMove m) := by
  have hw := arbiter_stepWrites p
  cases m with
  | frameArrival f =>
    exact .get_bind_eq fun u hu => .ite
      (fun hin => .bind (.readReg fun _ _ => trivial) fun _ =>
        .seq (Q := fun s => s.arb = u.arb) (.modify (by rintro _ rfl; rfl)) <|
        .seq (Q := fun s => s.arb = u.arb) (.modify fun _ hs => hs) <|
        .seq (Q := State.ArbIn p) (.modify fun s hs => by
          rw [State.ArbIn, State.onArb_arb, hs]
          exact h.frame _ hu hin.1 hin.2.1) <| .modify fun _ hs => hs)
      fun _ => .weaken (.pure _) (by rintro _ rfl; exact hu)
  | txDone =>
    exact .get_bind fun _ => .ite (fun _ => (hw.emitted _).seq (.setArb h.sent)) fun _ => .pure _
  | isr =>
    have start : Leads arbiterStop (State.ArbIn p) (State.ArbIn p) (rxStart (Pure.pure ())) :=
      arbiter_rxStart (q := fun b => p { b with radioState := .rx }) (.pure _) (.pure _) h.started fun _ hb => hb
    exact .get_bind fun _ => .ite
      (fun _ => .atomic (fun _ _ h => h) <| .seq (.modify fun _ hs => hs) <| .seq (.modify fun _ hs => hs) <|
        (hw.readReg _ _).bind fun _ => (hw.frameValid _).bind fun _ => (hw.emitted _).seq <| .ite
          (fun _ => .seq (.modify fun _ hs => hs) <| (hw.readReg _ _).bind fun _ =>
            .seq (.ite (fun _ => .modify fun _ hs => hs) fun _ => .raise fun _ _ => trivial) start)
          fun _ => start)
      fun _ => .pure _
  | spiStep =>
    exact .get_bind fun _ => .ite
      (fun _ => .ite (fun _ => .raise fun _ _ => trivial) fun _ => (hw.readReg _ _).bind fun _ =>
        (hw.emitted _).seq <| .modify fun _ hs => hs)
      fun _ => .pure _

theorem Arbiter.Phase.lineWrites (h : Phase p) : LineWrites arbiterStop (State.ArbIn p) :=
  { arbiter_stepWrites p with
    move := h.takeMove, refuse := fun _ _ _ => trivial, pos := fun _ _ h => h, env := fun _ _ h => h,
    status := fun _ _ h => h }

theorem arbiter_rests : LineWrites arbiterStop (State.ArbIn Arbiter.Rests) := Arbiter.rests_phase.lineWrites

theorem arbiter_stopping : LineWrites arbiterStop (State.ArbIn Arbiter.Stopping) := Arbiter.stopping_phase.lineWrites

theorem arbiter_transmits : LineWrites arbiterStop (State.ArbIn Arbiter.Transmits) := Arbiter.transmits_phase.lineWrites

/-! ### The commands -/

theorem arbiter_rxStartIfNeeded :
    Leads arbiterStop (State.ArbIn Arbiter.Rests) (State.ArbIn Arbiter.Rests) rxStartIfNeeded :=
  arbiter_rxStart arbiter_rests.tick Arbiter.arming_phase.lineWrites.tick
    (fun a h hoff hne => ⟨rfl, by
      obtain ⟨hrx, -⟩ := h
      cases hstate : a.radioState with
      | idle => rfl
      | rx => exact nomatch (hrx hstate).symm.trans hoff
      | tx => exact absurd hstate hne⟩)
    fun _ h => ⟨fun _ => h.1, nofun⟩

theorem arbiter_rxStopHw (keep : Bool) :
    Leads arbiterStop (State.ArbIn Arbiter.Rests) (State.ArbIn Arbiter.Rests) (rxStopHw keep) :=
  .atomic (fun _ _ h => h) <| arbiter_rests.point <| arbiter_rests.event <| arbiter_rests.point <|
    .seq (.setArb fun _ h => h.2) <| arbiter_stopping.point <|
    .seq (Q := State.ArbIn Arbiter.Rests) (.setArb fun a (h : a.radioState ≠ .tx) => by
      rw [Arbiter.Rests]
      split
      · exact ⟨nofun, nofun⟩
      · next hrx => exact ⟨fun heq => absurd heq hrx, h⟩) <|
    arbiter_rests.point <| .ite
      (fun _ => arbiter_rests.draws.2.2.1.bind fun _ => .modify fun _ h => h) fun _ => .modify fun _ h => h

theorem arbiter_linkWrites : LinkWrites arbiterStop (State.ArbIn Arbiter.Rests) :=
  { arbiter_rests with
    irq := fun _ _ h => h, radio := fun _ _ h => h, ring := fun _ _ _ h => h, xreg := fun _ _ _ h => h,
    res := fun _ _ h => h,
    linkArb := fun s f hf h => by
      obtain ⟨harmed, hstate⟩ := hf s.arb
      rw [State.ArbIn, State.onArb_arb, Arbiter.Rests, harmed, hstate]
      exact h
    disarm := fun _ _ => ⟨nofun, nofun⟩, start := arbiter_rxStartIfNeeded, stop := arbiter_rxStopHw }

theorem arbiter_displayWrites : DisplayWrites arbiterStop (State.ArbIn Arbiter.Rests) :=
  have holds (s : State) {p : HostPos} (hp : ∀ polls, p ≠ .txPoll polls) (h : s.ArbIn Arbiter.Rests) :
      arbiterStop (.hold p) s := ⟨h.1, fun htx => absurd htx h.2, fun ⟨polls, heq⟩ => absurd heq (hp polls)⟩
  { arbiter_rests with
    draw := fun _ _ _ h => h, outside := fun _ _ h => h, ink := fun _ _ _ _ _ _ h => h, epd := fun _ _ h => h,
    wait := fun s _ _ => holds s nofun, refreshing := fun s _ _ => holds s nofun, chunk := fun _ _ _ _ h => h,
    clear := fun _ h => h }

/-- RADIO_TRANSMIT's polls end at rest, or hold in the TX state (R70). -/
theorem arbiter_transmitPolls (fuel polls : Nat) :
    Leads arbiterStop (State.ArbIn Arbiter.Transmits) (State.ArbIn Arbiter.Rests) (transmitPolls fuel polls) := by
  have link := arbiter_linkWrites
  have poll := arbiter_transmits
  have idle : Leads arbiterStop (State.ArbIn Arbiter.Transmits) (State.ArbIn Arbiter.Rests)
      (setArb fun a => { a with radioState := .idle }) := .setArb fun _ _ => ⟨nofun, nofun⟩
  have ended : Leads arbiterStop (State.ArbIn Arbiter.Transmits) (State.ArbIn Arbiter.Rests) transmitEnd :=
    poll.line <| idle.seq <| link.line <| link.start.seq <| link.line <| link.setValue <| link.line <| .pure _
  have timeout : Leads arbiterStop (State.ArbIn Arbiter.Transmits) (State.ArbIn Arbiter.Rests) transmitTimeout :=
    poll.line <| poll.event <| idle.seq <| link.point <| link.start.seq <| link.point <| link.setValue <| .pure _
  have between : Leads arbiterStop (State.ArbIn Arbiter.Transmits) (State.ArbIn Arbiter.Transmits) xcvrBetweenPolls :=
    .get_bind fun s => by
      split
      · exact .ite (fun _ => poll.move .txDone) fun _ => (poll.freeAnswer _).bind fun _ =>
          .ite (fun _ => poll.move .txDone) fun _ => .pure _
      · exact .pure _
  induction fuel generalizing polls with
  | zero =>
    exact .stayAt fun s (h : s.arb.radioState = .tx) =>
      ⟨fun hrx => absurd (h.symm.trans hrx) nofun, fun _ => ⟨polls, rfl⟩, fun _ => h⟩
  | succ fuel ih =>
    exact poll.line <| poll.line <| poll.adcSample.bind fun _ => poll.event <| .get_bind fun _ =>
      (poll.readReg _ _).bind fun _ => .seq (.setArb (q := Arbiter.Transmits) fun _ h => h) <| poll.line <|
      .get_bind fun _ => .ite (fun _ => ended) fun _ => poll.line <|
      .ite (fun _ => timeout) fun _ => between.seq <| ih _

theorem arbiter_transmitLoop (polls : Nat) :
    Leads arbiterStop (State.ArbIn Arbiter.Transmits) (State.ArbIn Arbiter.Rests) (transmitLoop polls) :=
  .get_bind fun _ => arbiter_transmitPolls _ polls

theorem arbiter_radioTransmit (buf : U16) :
    Leads arbiterStop (State.ArbIn Arbiter.Rests) (State.ArbIn Arbiter.Rests) (radioTransmit buf) :=
  have link := arbiter_linkWrites
  link.gated (.modify fun s => link.res s _) <| .get_bind fun _ => link.line <| (link.hostRead _).bind fun _ =>
    link.line <| .ite (fun _ => link.setValue <| .pure _) fun _ => link.line <| (link.stop _).seq <|
    link.line <| (link.hostReadBytes _ _).bind fun _ => link.setArb.seq <| link.line <| link.setArb.seq <|
    link.line <| link.event <| .seq (.setArb fun _ _ => rfl) <| arbiter_transmits.line <|
    .seq (.setArb (q := Arbiter.Transmits) fun _ h => h) <| arbiter_transmitLoop _

theorem arbiter_commandBody (i : Instr) :
    Leads arbiterStop (State.ArbIn Arbiter.Rests) (State.ArbIn Arbiter.Rests) (commandBody i) := by
  cases hi : i.ofRadio with
  | true => exact arbiter_linkWrites.commandBody arbiter_radioTransmit hi fun _ _ _ _ _ _ _ h => h
  | false => exact arbiter_displayWrites.commandBody hi

/-! ### A step -/

theorem State.arbiterOk_of_marked {s : State} (h : ¬s.Unmarked) : s.ArbiterOk := fun hs => absurd hs h

/-- What a run that ends at rest settles to. -/
theorem arbiterOk_settle {P : State → Prop} {m : M Unit} (h : Leads arbiterStop P (State.ArbIn Arbiter.Rests) m)
    {s : State} (hs : P s) : (settle (m.run s)).ArbiterOk :=
  h.settle (fun _ ht _ => ⟨ht.1, fun htx => absurd htx ht.2, nofun⟩)
    (fun _ _ _ => State.arbiterOk_of_marked fun hmark => nomatch hmark.1)
    (fun _ _ _ => State.arbiterOk_of_marked fun hmark => nomatch hmark.2) (fun _ _ ht _ => ht) hs

theorem State.ArbiterOk.rests {s : State} (h : s.ArbiterOk) (hs : s.Unmarked)
    (hpos : ∀ polls, s.hostPos ≠ .txPoll polls) : s.ArbIn Arbiter.Rests :=
  have ⟨hrx, htx⟩ := h hs
  ⟨hrx, fun heq => have ⟨polls, hp⟩ := htx.1 heq; hpos polls hp⟩

theorem arbiterOk_goOn {s : State} (h : s.ArbiterOk) (hs : s.Unmarked) (hpos : s.hostPos.IsHold) :
    (goOn s).ArbiterOk := by
  rw [goOn_eq hpos]
  by_cases hpoll : ∃ polls, s.hostPos = .txPoll polls
  · obtain ⟨polls, heq⟩ := hpoll
    rw [heq]
    exact arbiterOk_settle
      (arbiter_rests.command <| arbiter_transmits.fairWhenUnscheduled.seq <| arbiter_transmitLoop polls)
      ((h hs).2.2 ⟨polls, heq⟩)
  · have hpoll : ∀ polls, s.hostPos ≠ .txPoll polls := fun polls heq => hpoll ⟨polls, heq⟩
    exact arbiterOk_settle
      (arbiter_rests.command <| arbiter_rests.fairWhenUnscheduled.seq <| arbiter_displayWrites.heldBody hpoll)
      (h.rests hs hpoll)

theorem arbiterOk_step {s t : State} (h : s.ArbiterOk) (hstep : step s = .next t) : t.ArbiterOk := by
  obtain ⟨hs, hkind⟩ := stepKind_of_step hstep
  have rests (hpos : s.hostPos = .idle) : s.ArbIn Arbiter.Rests := h.rests hs fun polls => by rw [hpos]; nofun
  cases hkind with
  | start _ =>
    rw [modelStart]
    split
    · exact h
    · exact State.arbiterOk_of_marked fun hmark => nomatch hmark.2
  | stay _ _ _ => exact h
  | goOn hpos => exact arbiterOk_goOn h hs hpos
  | agent m f hpos => exact arbiterOk_settle (arbiter_rests.move m) (rests hpos)
  | wait f hpos => exact arbiterOk_settle arbiter_rests.fairWhenUnscheduled (rests hpos)
  | store a b f q hpos =>
    have hstore : Leads arbiterStop (State.ArbIn Arbiter.Rests) (State.ArbIn Arbiter.Rests) (hostWrite a.toNat b) :=
      .get_bind fun _ => .ite (fun _ => .raise fun _ _ => trivial) fun _ => .modify fun _ h => h
    exact arbiterOk_settle hstore (rests hpos)
  | refused x f q _ => exact State.arbiterOk_of_marked fun hmark => nomatch hmark.2
  | command i f q hpos => exact arbiterOk_settle (arbiter_rests.command (arbiter_commandBody i)) (rests hpos)

end Sys2Proof.Machine

namespace Sys2Proof

open Sys2Proof.Machine

/-- Settles O58: every command leads from rest to rest, or holds in the TX state at RADIO_TRANSMIT's polls only. -/
theorem stepKeepsTheArbiter : Obligations.StepKeepsTheArbiter := fun _ _ => arbiterOk_step

end Sys2Proof

/-! PROOF. The panel's bus (R81, R85, R86). A phase of the bus is what may be said of the panel's power, the bus's
connection, the shifter and the byte held for it; in every phase a byte stands in the shifter only where it can leave. -/

namespace Sys2Proof.Machine

variable {p : Bool → Bool → Bool → Bool → Prop}

/-! ### The phases -/

/-- No fault has ended the run, and `p` holds of power, connection, shifter and held byte. -/
def State.BusIn (p : Bool → Bool → Bool → Bool → Prop) (s : State) : Prop :=
  s.faultMark = none ∧ p s.epd.epdPowered s.epd.spiConnected s.epd.spiBusy s.epd.spiHold.isSome

/-- In a phase a byte in the shifter can leave, and the phase goes on when it has left (R81). -/
structure BusPhase (p : Bool → Bool → Bool → Bool → Prop) : Prop where
  ready : ∀ {powered connected held}, p powered connected true held → connected = true ∧ held = true
  left : ∀ {powered connected held}, p powered connected true held → p powered connected false held

/-- Where no command runs: a powered panel is connected. -/
def BusRest (powered connected busy held : Bool) : Prop :=
  (busy = true → connected = true ∧ held = true) ∧ (powered = true → connected = true)

/-- The panel is not powered. -/
def BusOff (powered connected busy held : Bool) : Prop :=
  (busy = true → connected = true ∧ held = true) ∧ powered = false

/-- The bus is connected, with the panel powered or not. -/
def BusOn (on powered connected busy held : Bool) : Prop :=
  powered = on ∧ connected = true ∧ (busy = true → held = true)

/-- The bus is connected and a byte is held (R80). -/
def BusHolds (on powered connected _busy held : Bool) : Prop := powered = on ∧ connected = true ∧ held = true

/-- The last byte has left (R86). -/
def BusDrained (_powered _connected busy _held : Bool) : Prop := busy = false

theorem busRest_phase : BusPhase BusRest := ⟨fun h => h.1 rfl, fun h => ⟨nofun, h.2⟩⟩

theorem busOff_phase : BusPhase BusOff := ⟨fun h => h.1 rfl, fun h => ⟨nofun, h.2⟩⟩

theorem busOn_phase (on : Bool) : BusPhase (BusOn on) := ⟨fun h => ⟨h.2.1, h.2.2 rfl⟩, fun h => ⟨h.1, h.2.1, nofun⟩⟩

theorem busHolds_phase (on : Bool) : BusPhase (BusHolds on) := ⟨fun h => ⟨h.2.1, h.2.2⟩, fun h => h⟩

theorem busDrained_phase : BusPhase BusDrained := ⟨nofun, nofun⟩

/-- What a command that stops leaves of the bus. -/
def busStop (e : Stop) (s : State) : Prop := (settle (.error e s)).BusOk

/-! ### What a phase allows -/

theorem State.BusIn.shifterReady {s : State} (h : s.BusIn p) (hp : BusPhase p) : s.ShifterReady := by
  intro hbusy
  have hin := h.2
  rw [hbusy] at hin
  obtain ⟨hcon, hheld⟩ := hp.ready hin
  exact ⟨hcon, Option.ne_none_iff_isSome.2 hheld⟩

theorem State.BusIn.busOk {s : State} (h : s.BusIn p) (hp : BusPhase p) (hun : s.Unmarked →
    (s.epd.epdPowered = true → s.epd.spiConnected = true) ∧
      (∀ w c, s.hostPos = .busyWait w c → s.epd.spiConnected = true ∧ s.epd.epdPowered = false) ∧
      ∀ m c, s.hostPos = .refreshPoll m c → s.epd.epdPowered = true) : s.BusOk :=
  ⟨fun hmark => absurd (h.1.symm.trans hmark) nofun, h.shifterReady hp, hun⟩

theorem BusPhase.agentWrites (hp : BusPhase p) : AgentWrites busStop (State.BusIn p) :=
  { fault := fun s f hne h =>
      ⟨fun hmark => hne (Option.some.inj hmark), h.shifterReady hp, fun hun => nomatch hun.1⟩,
    emit := fun _ _ h => h, irq := fun _ _ h => h, raised := fun _ h => h, agentArb := fun _ _ _ h => h,
    agentRing := fun _ _ _ h => h, frame := fun _ _ _ _ h => h,
    byteOut := fun s hbusy _ h => by
      obtain ⟨hmark, hin⟩ := h
      rw [hbusy] at hin
      exact ⟨hmark, hp.left hin⟩
    disconnected := fun s hbusy hoff h => nomatch hoff.symm.trans (h.shifterReady hp hbusy).1 }

theorem BusPhase.lineWrites (hp : BusPhase p) : LineWrites busStop (State.BusIn p) :=
  { hp.agentWrites with
    move := hp.agentWrites.takeMove,
    refuse := fun _ _ h =>
      ⟨fun hmark => absurd (h.1.symm.trans hmark) nofun, h.shifterReady hp, fun hun => nomatch hun.2⟩,
    pos := fun _ _ h => h, env := fun _ _ h => h, status := fun _ _ h => h }

theorem BusPhase.pinWrites (hp : BusPhase p) : PinWrites busStop (State.BusIn p) :=
  { hp.lineWrites with
    pins := fun s f hf h => by
      obtain ⟨hpow, hcon, hbusy, hhold⟩ := hf s.epd
      rw [State.BusIn, State.onEpd_epd, hpow, hcon, hbusy, hhold]
      exact h }

/-- A byte is handed to a connected shifter (R80). -/
theorem busOn_panelWrites (on : Bool) : PanelWrites busStop (State.BusIn (BusOn on)) :=
  have lines := (busOn_phase on).lineWrites
  { (busOn_phase on).pinWrites with
    hand := fun _ _ _ => lines.awaitShifter.seq <| lines.point <|
      .seq (Q := State.BusIn (BusHolds on)) (.modify fun _ h => ⟨h.1, h.2.1, h.2.2.1, rfl⟩) <|
      (busHolds_phase on).lineWrites.point <| .modify fun _ h => ⟨h.1, h.2.1, h.2.2.1, fun _ => h.2.2.2⟩ }

/-- After `await spiBusy = 0` no byte stands in the shifter (R80). -/
theorem busOn_awaitShifter (on : Bool) : Leads busStop (State.BusIn (BusOn on)) (State.BusIn BusDrained) awaitShifter :=
  have agents := (busOn_phase on).agentWrites
  have step : Leads busStop (State.BusIn (BusOn on)) (State.BusIn BusDrained) spiStep :=
    .get_bind_eq fun u hu => .ite
      (fun hbusy => .ite (fun hoff => .raise fun _ hs => hs ▸ agents.disconnected u hbusy hoff hu) fun _ =>
        .bind (.readReg fun _ hs => hs ▸ agents.fault u _ nofun hu) fun _ =>
        .seq (Q := fun s => s.faultMark = none) (.modify fun _ hs => hs ▸ hu.1) <| .modify fun _ hmark => ⟨hmark, rfl⟩)
      fun hidle => .weaken (.pure _) fun _ hs => hs ▸ ⟨hu.1, by simpa [BusDrained] using hidle⟩
  (busOn_phase on).lineWrites.point step

theorem bus_engineWrites : EngineWrites busStop (State.BusIn BusRest) (State.BusIn BusOff) (State.BusIn (BusOn false))
    (State.BusIn (BusOn true)) (State.BusIn BusDrained) where
  resting := busRest_phase.pinWrites
  unpowered := busOff_phase.pinWrites
  connected := busOn_panelWrites false
  powered := busOn_panelWrites true
  ending := busDrained_phase.pinWrites
  of_unpowered := fun _ hpow h => ⟨h.1, h.2.1, hpow⟩
  of_powered := fun _ hpow h => ⟨h.1, hpow, h.2.2 hpow, fun hbusy => (h.2.1 hbusy).2⟩
  connect := fun _ h => ⟨h.1, h.2.2, rfl, fun hbusy => (h.2.1 hbusy).2⟩
  power := fun _ h => ⟨h.1, rfl, h.2.2⟩
  drain := busOn_awaitShifter true
  disconnect := fun _ h => h
  unpower := fun _ h => ⟨h.1, fun hbusy => absurd (h.2.symm.trans hbusy) nofun, nofun⟩
  rest := fun _ h => ⟨h.1, fun hbusy => ⟨h.2.2.1, h.2.2.2 hbusy⟩, fun _ => h.2.2.1⟩
  wait := fun _ _ _ h => State.BusIn.busOk (p := BusOn false) h (busOn_phase false) fun _ =>
    ⟨fun _ => h.2.2.1, fun _ _ _ => ⟨h.2.2.1, h.2.1⟩, nofun⟩
  refreshing := fun _ _ _ h => State.BusIn.busOk (p := BusOn true) h (busOn_phase true) fun _ =>
    ⟨fun _ => h.2.2.1, nofun, fun _ _ _ => h.2.1⟩

theorem bus_radioWrites : RadioWrites busStop (State.BusIn BusRest) :=
  { busRest_phase.lineWrites, busRest_phase.agentWrites with
    radio := fun _ _ h => h, arb := fun _ _ h => h, ring := fun _ _ _ h => h, xreg := fun _ _ _ h => h,
    res := fun _ _ h => h,
    poll := fun _ _ h => State.BusIn.busOk (p := BusRest) h busRest_phase fun _ => ⟨h.2.2, nofun, nofun⟩ }

theorem bus_wholeDraws : WholeDraws busStop (State.BusIn BusRest) :=
  bus_engineWrites.wholeDraws
    { busRest_phase.lineWrites with
      draw := fun _ _ _ h => h, outside := fun _ _ h => h, ink := fun _ _ _ _ _ _ h => h }
    (fun _ _ _ _ h => h) fun _ h => h

theorem bus_commandBody (i : Instr) : Leads busStop (State.BusIn BusRest) (State.BusIn BusRest) (commandBody i) := by
  cases hi : i.ofRadio with
  | true => exact bus_radioWrites.commandBody hi fun _ _ _ _ _ _ _ h => h
  | false => exact bus_engineWrites.commandBody bus_wholeDraws hi

/-! ### A step -/

/-- What a run that ends at rest settles to. -/
theorem busOk_settle {P : State → Prop} {m : M Unit} (h : Leads busStop P (State.BusIn BusRest) m) {s : State}
    (hs : P s) : (settle (m.run s)).BusOk :=
  h.settle (fun _ ht => State.BusIn.busOk (p := BusRest) ht busRest_phase fun _ => ⟨ht.2.2, nofun, nofun⟩)
    (fun _ _ ht => ht) (fun _ _ ht => ht) (fun _ _ ht => ht) hs

theorem State.BusOk.rests {s : State} (h : s.BusOk) (hs : s.Unmarked) : s.BusIn BusRest :=
  have ⟨_, hready, hun⟩ := h
  ⟨hs.1, fun hbusy => have ⟨hcon, hheld⟩ := hready hbusy; ⟨hcon, Option.isSome_iff_ne_none.2 hheld⟩, (hun hs).1⟩

theorem busOk_goOn {s : State} (h : s.BusOk) (hs : s.Unmarked) (hpos : s.hostPos.IsHold) : (goOn s).BusOk := by
  rw [goOn_eq hpos]
  have rest := h.rests hs
  obtain ⟨-, hwait, hrefresh⟩ := h.2.2 hs
  have lines := busRest_phase.lineWrites
  cases hp : s.hostPos with
  | idle => exact absurd hp hpos.1
  | line op n => exact absurd hp (hpos.2 op n)
  | txPoll polls =>
    exact busOk_settle (lines.command <| lines.fairWhenUnscheduled.seq <| bus_radioWrites.heldBody polls) rest
  | busyWait w c =>
    obtain ⟨hcon, hpow⟩ := hwait w c hp
    exact busOk_settle
      (lines.command <| (busOn_phase false).lineWrites.fairWhenUnscheduled.seq <|
        bus_engineWrites.heldWait bus_wholeDraws w c)
      ⟨hs.1, hpow, hcon, fun hbusy => (rest.2.1 hbusy).2⟩
  | refreshPoll m c =>
    have hpow := hrefresh m c hp
    exact busOk_settle
      (lines.command <| (busOn_phase true).lineWrites.fairWhenUnscheduled.seq <| bus_engineWrites.heldRefresh m c)
      ⟨hs.1, hpow, rest.2.2 hpow, fun hbusy => (rest.2.1 hbusy).2⟩

theorem busOk_step {s t : State} (h : s.BusOk) (hstep : step s = .next t) : t.BusOk := by
  obtain ⟨hs, hkind⟩ := stepKind_of_step hstep
  have rest := h.rests hs
  have lines := busRest_phase.lineWrites
  cases hkind with
  | start _ =>
    rw [modelStart]
    split
    · exact h
    · exact ⟨h.1, h.2.1, fun hun => nomatch hun.2⟩
  | stay _ _ _ => exact h
  | goOn hpos => exact busOk_goOn h hs hpos
  | agent m f _ => exact busOk_settle (lines.move m) rest
  | wait f _ => exact busOk_settle lines.fairWhenUnscheduled rest
  | store a b f q _ =>
    have hstore : Leads busStop (State.BusIn BusRest) (State.BusIn BusRest) (hostWrite a.toNat b) :=
      .get_bind fun _ => .ite (fun _ => .raise fun s => lines.fault s _ nofun) fun _ => .modify fun _ h => h
    exact busOk_settle hstore rest
  | refused x f q _ => exact ⟨h.1, h.2.1, fun hun => nomatch hun.2⟩
  | command i f q _ => exact busOk_settle (lines.command (bus_commandBody i)) rest

end Sys2Proof.Machine

namespace Sys2Proof

open Sys2Proof.Machine

/-- Settles O59: every phase of the bus keeps a byte out of the shifter of a bus that is not connected. -/
theorem stepNeverShiftsDisconnected : Obligations.StepNeverShiftsDisconnected := fun _ _ => busOk_step

end Sys2Proof

/-! PROOF. Whose turn a step is (R6, R7, R40, R44, R106, R107), and the agents' own steps (R62, R64, R81). -/

namespace Sys2Proof.Machine

variable {s t : State}

/-! ### The turn -/

theorem step_of_settled (hs : s.Unmarked) (h : nextTurn s = .settled t) : step s = .next t := by
  obtain ⟨hfault, hrefuse⟩ := hs
  rw [step, hfault, hrefuse]
  simp only [h]

theorem step_of_run (hs : s.Unmarked) {i : Instr} (h : nextTurn s = .run i t) : step s = exec i t := by
  obtain ⟨hfault, hrefuse⟩ := hs
  rw [step, hfault, hrefuse]
  simp only [h]

/-- The schedule's entry is taken. -/
def State.entryTaken (s : State) : State := s.onEnv fun v => { v with sched := v.sched.tail }

/-- With no agent at the head of the schedule it is the idle host's turn (R6). -/
theorem nextTurn_of_host (hstart : s.started = true) (hpos : s.hostPos = .idle)
    (hsched : s.env.sched.head?.getD [] = []) : nextTurn s = hostTurn s.entryTaken := by
  rw [nextTurn, if_neg (by simp [hstart]), hpos]
  match hs : s.env.sched with
  | [] =>
    have htaken : s.entryTaken = s := by
      obtain ⟨_, ⟨sched, _, _, _, _, _, _, _, _⟩, _, _, _, _, _, _, _, _, _, _, _, _, _, _, _⟩ := s
      obtain rfl : sched = [] := hs
      rfl
    simp only [htaken]
  | [] :: rest => simp only [State.entryTaken, State.onEnv, hs, List.tail_cons]
  | (m :: ms) :: rest => simp [hs] at hsched

/-- A scheduled agent steps while the host is idle (R7, R111). -/
theorem nextTurn_of_agent (hstart : s.started = true) (hpos : s.hostPos = .idle) {m : Move} {ms : List Move}
    {rest : List (List Move)} (hsched : s.env.sched = (m :: ms) :: rest) :
    nextTurn s = .settled (settle ((takeMove m).run (s.onEnv fun v => { v with sched := ms :: rest }))) := by
  rw [nextTurn, if_neg (by simp [hstart]), hpos]
  simp only [hsched]

/-- A word that decodes is the host's next command (R40). -/
theorem hostTurn_of_decoded {w : Word} {q : List HostAct} {i : Instr} (hqueue : s.hostQueue = .command w :: q)
    (h : decode w = .ok i) : hostTurn s = .run i (s.withQueue q) := by
  rw [hostTurn, hqueue]
  simp only [h]

/-- A word that does not decode is refused (R44). -/
theorem hostTurn_of_undecoded {w : Word} {q : List HostAct} {e : DecodeError} (hqueue : s.hostQueue = .command w :: q)
    (h : decode w = .error e) : hostTurn s = .settled ((s.withQueue q).withRefusal (refusalOfDecode e)) := by
  rw [hostTurn, hqueue]
  simp only [h]

/-! ### A step that faults -/

/-- A critical section stops where its body stops. -/
theorem atomic_run_error {α : Type} {body : M α} {e : Stop}
    (h : body.run (s.onIrq fun q => { q with ie := false }) = .error e t) : (atomic body).run s = .error e t := by
  rw [atomic_run, h]

/-- A frame arrival that faults has written nothing (R106). -/
theorem frameArrival_run_error {f : List Byte} {e : Stop} (h : (frameArrival f).run s = .error e t) : t = s := by
  rw [frameArrival, run_bind_ok (run_get_ok s)] at h
  split at h
  · cases hw : s.ring.writeIdx with
    | none => rw [hw, run_bind_error (readReg_none_run _ _)] at h; cases h; rfl
    | some w => rw [hw, run_bind_ok (readReg_some_run _ _ _)] at h; cases h
  · cases h

/-- A shifter's step that faults has written nothing (R106). -/
theorem spiStep_run_error {e : Stop} (h : spiStep.run s = .error e t) : t = s := by
  rw [spiStep, run_bind_ok (run_get_ok s)] at h
  split at h
  · split at h
    · cases h; rfl
    · cases hb : s.epd.spiHold with
      | none => rw [hb, run_bind_error (readReg_none_run _ _)] at h; cases h; rfl
      | some b => rw [hb, run_bind_ok (readReg_some_run _ _ _)] at h; cases h
  · cases h

/-- Of the agents' steps only the interrupt handler has lines before the one that faults (R106). -/
theorem takeMove_run_error {m : Move} (hm : m ≠ .isr) {e : Stop} (h : (takeMove m).run s = .error e t) : t = s := by
  cases m with
  | frameArrival f => exact frameArrival_run_error h
  | txDone =>
    rw [takeMove_txDone_run] at h
    split at h <;> cases h
  | isr => exact absurd rfl hm
  | spiStep => exact spiStep_run_error h

/-! ### Frame arrival -/

/-- An enabled frame arrival (R62). -/
theorem frameArrival_run {f : List Byte} {w : Fin 3} (harmed : s.arb.rxArmed = true) (hrx : s.arb.radioState = .rx)
    (hpending : s.irq.rxDonePending = false) (hf : frameShape s.cfg f = true) (hw : s.ring.writeIdx = some w) :
    (frameArrival f).run s =
      .ok () { s with
        ring := { s.ring with cells := s.ring.cells.writeBytes (ringAddr w 0) f },
        arb := { s.arb with rxArmed := false, radioState := .idle },
        irq := { s.irq with rxDonePending := true },
        trace := s.trace ++ [.rxFrame w f] } := by
  rw [frameArrival, run_bind_ok (run_get_ok s), if_pos ⟨harmed, hrx, hpending, hf⟩, hw,
    run_bind_ok (readReg_some_run _ _ _)]
  rfl

/-- A frame arrival that is not enabled is no step (R62). -/
theorem frameArrival_run_of_not (f : List Byte)
    (h : ¬(s.arb.rxArmed = true ∧ s.arb.radioState = .rx ∧ s.irq.rxDonePending = false)) :
    (frameArrival f).run s = .ok () s := by
  rw [frameArrival, run_bind_ok (run_get_ok s), if_neg fun ⟨harmed, hrx, hpending, _⟩ => h ⟨harmed, hrx, hpending⟩]
  rfl

/-! ### The interrupt handler -/

/-- The handler has taken the completion (R64 lines 1 and 2). -/
def State.completionTaken (s : State) : State :=
  { s with irq := { ie := false, rxDonePending := false }, radio := { s.radio with irqRaisedRx := true } }

/-- A frame of valid length (R63). -/
theorem frameValid_run_of_length {w : Fin 3} {len flags : Byte} (h0 : s.ring.cells.read (ringAddr w 0) = some len)
    (hlow : 1 ≤ len.toNat) (hhigh : len.toNat ≤ s.cfg.maxPayload)
    (h2 : s.ring.cells.read (ringAddr w (len.toNat + 2)) = some flags) :
    (frameValid w).run s = .ok (flags.getLsbD 7) s := by
  have hread0 : (ringRead w 0).run s = .ok len s := by
    rw [ringRead_run, if_neg (by rw [slotSize]; omega), h0]
  have hread2 : (ringRead w (len.toNat + 2)).run s = .ok flags s := by
    rw [ringRead_run, if_neg (by rw [slotSize]; omega), h2]
  have hlen : lengthValid s.cfg len = true := decide_eq_true ⟨hlow, hhigh⟩
  rw [frameValid, run_bind_ok (run_get_ok s), run_bind_ok hread0, if_pos hlen, run_bind_ok hread2]
  rfl

/-- A length out of range makes a frame invalid without a look at its flags (R63). -/
theorem frameValid_run_of_not_length {w : Fin 3} {len : Byte} (h0 : s.ring.cells.read (ringAddr w 0) = some len)
    (hout : len = 0#8 ∨ s.cfg.maxPayload < len.toNat) : (frameValid w).run s = .ok false s := by
  have hread0 : (ringRead w 0).run s = .ok len s := by
    rw [ringRead_run, if_neg (by rw [slotSize]; omega), h0]
  have hnot : lengthValid s.cfg len = false := by
    refine decide_eq_false fun ⟨hlow, hhigh⟩ => ?_
    rcases hout with rfl | hout
    · exact absurd hlow (by decide)
    · omega
  rw [frameValid, run_bind_ok (run_get_ok s), run_bind_ok hread0, hnot]
  rfl

/-- The handler's lines after the frame's check (R64). -/
def isrEnd (w : Fin 3) (free : Option Nat) (valid : Bool) : M Unit := do
  if valid = true then do
    setRing fun r => { r with writeIdx := some (w + 1) }
    let n ← readReg 19 free
    setFreeCount ((n : Int) - 1)
  else pure ()
  rxStart (pure ())

section Handler

variable {w : Fin 3} {valid : Bool} {u : State} (hie : s.irq.ie = true) (hpending : s.irq.rxDonePending = true)
  (hw : s.ring.writeIdx = some w) (hv : (frameValid w).run s.completionTaken = .ok valid s.completionTaken)
include hie hpending hw hv

theorem isrStep_run_ok
    (h : (isrEnd w s.ring.freeCount valid).run (s.completionTaken.emit (.isrEntry valid)) = .ok () u) :
    isrStep.run s = .ok () (u.onIrq fun q => { q with ie := s.irq.ie }) := by
  rw [isrStep, run_bind_ok (run_get_ok s), if_pos ⟨hie, hpending⟩]
  refine atomic_run_ok ?_
  rw [run_bind_ok (setIrq_run _ _), run_bind_ok (setRadio_run _ _), hw, run_bind_ok (readReg_some_run _ _ _)]
  exact (run_bind_ok hv).trans ((run_bind_ok (emit_run _ _)).trans h)

theorem isrStep_run_error {e : Stop}
    (h : (isrEnd w s.ring.freeCount valid).run (s.completionTaken.emit (.isrEntry valid)) = .error e u) :
    isrStep.run s = .error e u := by
  rw [isrStep, run_bind_ok (run_get_ok s), if_pos ⟨hie, hpending⟩]
  refine atomic_run_error ?_
  rw [run_bind_ok (setIrq_run _ _), run_bind_ok (setRadio_run _ _), hw, run_bind_ok (readReg_some_run _ _ _)]
  exact (run_bind_ok hv).trans ((run_bind_ok (emit_run _ _)).trans h)

end Handler

/-- A rejected frame leaves the ring (R64). -/
theorem isrEnd_run_of_invalid {w : Fin 3} {n : Nat} (hn : s.ring.freeCount = some n) (hw : s.ring.writeIdx = some w) :
    (isrEnd w (some n) false).run s = .ok () (s.rxStarted w n) := by
  rw [isrEnd, if_neg Bool.false_ne_true]
  exact rxStart_one_step_run hn hw

/-- An accepted frame takes a slot (R64). -/
theorem isrEnd_run_of_valid {n : Nat} (w : Fin 3) (h1 : 1 ≤ n) (h3 : n ≤ 3) :
    (isrEnd w (some n) true).run s =
      .ok () (State.rxStarted (w + 1) (n - 1)
        { s with ring := { s.ring with writeIdx := some (w + 1), freeCount := some (n - 1) } }) := by
  have hset : (setFreeCount ((n : Int) - 1)).run (s.onRing fun r => { r with writeIdx := some (w + 1) }) =
      .ok () { s with ring := { s.ring with writeIdx := some (w + 1), freeCount := some (n - 1) } } := by
    rw [setFreeCount_run, if_pos (by omega), show ((n : Int) - 1).toNat = n - 1 by omega]
    rfl
  rw [isrEnd, if_pos rfl, run_bind_ok (setRing_run _ _), run_bind_ok (readReg_some_run _ _ _), run_bind_ok hset]
  exact rxStart_one_step_run rfl rfl

/-- An accepted frame with no slot free faults at the count, after the index has moved (R13, R64). -/
theorem isrEnd_run_of_full (w : Fin 3) :
    (isrEnd w (some 0) true).run s =
      .error (.fault (.ringRange (-1))) (s.onRing fun r => { r with writeIdx := some (w + 1) }) := rfl

/-- Interrupts on again after the handler, which does not affect receive's start. -/
theorem State.rxStarted_onIrq (f : Interrupt → Interrupt) (w : Fin 3) (n : Nat) :
    (s.rxStarted w n).onIrq f = (s.onIrq f).rxStarted w n := by
  simp only [State.rxStarted, show (s.onIrq f).rxStarts n = s.rxStarts n from rfl]
  split <;> rfl

end Sys2Proof.Machine

namespace Sys2Proof

open Sys2Proof.Machine

/-- Settles O5: the turn is the host's, and the word is decoded. -/
theorem stepRunsDecodedCommand : Obligations.StepRunsDecodedCommand := by
  intro s w q i hs hstart hpos hsched hqueue hdecode
  exact step_of_run hs ((nextTurn_of_host hstart hpos hsched).trans (hostTurn_of_decoded hqueue hdecode))

/-- Settles O6: the turn is the host's, and it settles to the refusal mark. -/
theorem refusedWordOnlyMarks : Obligations.RefusedWordOnlyMarks := by
  intro s w q e hs hstart hpos hsched hqueue hdecode
  rw [step_of_settled hs ((nextTurn_of_host hstart hpos hsched).trans (hostTurn_of_undecoded hqueue hdecode))]
  cases e <;> rfl

/-- Settles O7: the marks are looked at first, the fault's before the refusal's. -/
theorem markedBlockStops : Obligations.MarkedBlockStops := by
  refine fun s => ⟨fun f hfault => ?_, fun x hfault hrefuse => ?_⟩
  · rw [step, hfault]
  · rw [step, hfault, hrefuse]

/-- Settles O8: the turn is the agent's, and only the interrupt handler can fault past its first write. -/
theorem idleStepTakesScheduledAgent : Obligations.IdleStepTakesScheduledAgent := by
  intro s t m ms rest hs hstart hpos hsched
  have hstep := step_of_settled hs (nextTurn_of_agent hstart hpos hsched)
  refine ⟨fun hrun => ?_, fun f hrun => ⟨?_, fun hm => takeMove_run_error hm hrun⟩⟩
  · rw [hstep, State.onEnv, hrun]
    rfl
  · rw [hstep, State.onEnv, hrun]
    rfl

/-- Settles O13: the frame's bytes are written from the slot's first cell on. -/
theorem frameArrivalFillsTheWriteSlot : Obligations.FrameArrivalFillsTheWriteSlot := by
  intro s len rest w hw
  refine ⟨fun harmed hrx hpending hlength => ?_, frameArrival_run_of_not _⟩
  exact ⟨_, frameArrival_run harmed hrx hpending (decide_eq_true hlength) hw,
    Memory.read_writeBytes s.ring.cells (ringAddr w 0) (len :: rest)⟩

/-- Settles O15: no byte, no bus, or a byte that leaves. -/
theorem shifterSendsTheHeldByte : Obligations.ShifterSendsTheHeldByte := by
  intro s
  refine ⟨fun hidle => ?_, fun hbusy hoff => ?_, fun t k b hbusy hon hhold => ?_⟩
  · rw [takeMove, spiStep, run_bind_ok (run_get_ok s), if_neg (by simp [hidle])]
    rfl
  · rw [takeMove, spiStep, run_bind_ok (run_get_ok s), if_pos hbusy, if_pos hoff]
    rfl
  · have hready : s.ShifterReady := fun _ => ⟨hon, by simp [hhold]⟩
    rw [takeMove_spiStep_run hready, State.drained, hbusy, hhold]

/-- Settles O16: the handler reads the frame's length and flags, and then takes a slot or none. -/
theorem interruptAcceptsOrRejects : Obligations.InterruptAcceptsOrRejects := by
  intro s
  refine ⟨fun hoff => ?off, fun w n len hie hpending hw hn h0 =>
    ⟨fun flags hlow hhigh h2 hcrc => ⟨?takes, ?full⟩, ?rejects⟩⟩
  case off =>
    rw [takeMove, isrStep, run_bind_ok (run_get_ok s), if_neg hoff]
    rfl
  case takes =>
    intro h1 h3
    have hv := frameValid_run_of_length (s := s.completionTaken) h0 hlow hhigh h2
    rw [hcrc] at hv
    rw [takeMove, isrStep_run_ok hie hpending hw hv (hn ▸ isrEnd_run_of_valid w h1 h3), State.rxStarted_onIrq]
    rfl
  case full =>
    rintro rfl
    have hv := frameValid_run_of_length (s := s.completionTaken) h0 hlow hhigh h2
    rw [hcrc] at hv
    exact isrStep_run_error hie hpending hw hv (hn ▸ isrEnd_run_of_full w)
  case rejects =>
    intro hbad
    have hv : (frameValid w).run s.completionTaken = .ok false s.completionTaken := by
      by_cases hout : len = 0#8 ∨ s.cfg.maxPayload < len.toNat
      · exact frameValid_run_of_not_length (s := s.completionTaken) h0 hout
      · obtain hzero | hlong | ⟨flags, h2, hcrc⟩ := hbad
        · exact absurd (.inl hzero) hout
        · exact absurd (.inr hlong) hout
        · have hpos : len.toNat ≠ 0 := fun hzero => hout (.inl (BitVec.eq_of_toNat_eq hzero))
          have hfits : len.toNat ≤ s.cfg.maxPayload := Nat.not_lt.1 fun hlong => hout (.inr hlong)
          have hv := frameValid_run_of_length (s := s.completionTaken) h0 (by omega) hfits h2
          rwa [hcrc] at hv
    have hend := isrEnd_run_of_invalid (s := s.completionTaken.emit (.isrEntry false)) hn hw
    rw [takeMove, isrStep_run_ok hie hpending hw hv (hn ▸ hend), State.rxStarted_onIrq]
    rfl

end Sys2Proof

/-! PROOF. Runs of a command with no other agent scheduled, wherever the host stands. `Runs m s r` says that `m` ends from
`s` as `r` up to the host's position, which every line moves and which no end of a command depends on. A command's run is
put together line by line, and the state that it leaves is read off the chain. -/

namespace Sys2Proof.Machine

variable {α β : Type} {s t : State}

/-! ### The judgement -/

/-- An end with the host standing at `q`. -/
def placed (q : HostPos) : EStateM.Result Stop State α → EStateM.Result Stop State α
  | .ok a t => .ok a (t.withHostPos q)
  | .error e t => .error e (t.withHostPos q)

/-- A run that goes on is still quiet. -/
def GoesOnQuiet : EStateM.Result Stop State α → Prop
  | .ok _ t => t.Quiet
  | .error _ _ => True

/-- From `s` with no agent scheduled, wherever the host stands, `m` ends as `r` up to the host's position. -/
def Runs (m : M α) (s : State) (r : EStateM.Result Stop State α) : Prop :=
  s.Quiet → GoesOnQuiet r ∧ ∀ p, ∃ q, m.run (s.withHostPos p) = placed q r

namespace Runs

variable {m : M α} {f : α → M β} {k : M β} {a : α} {r : EStateM.Result Stop State β}

theorem bind (hm : Runs m s (.ok a t)) (hf : Runs (f a) t r) : Runs (m >>= f) s r := by
  intro hq
  obtain ⟨ht, hrun⟩ := hm hq
  obtain ⟨hr, hrest⟩ := hf ht
  refine ⟨hr, fun p => ?_⟩
  obtain ⟨p', hp'⟩ := hrun p
  obtain ⟨q, hq'⟩ := hrest p'
  exact ⟨q, (run_bind_ok hp').trans hq'⟩

theorem seq {m : M Unit} (hm : Runs m s (.ok () t)) (hk : Runs k t r) : Runs (m >>= fun _ => k) s r := hm.bind hk

/-- A run that stops before the rest. -/
theorem stop {e : Stop} (hm : Runs m s (.error e t)) : Runs (m >>= f) s (.error e t) := by
  intro hq
  obtain ⟨-, hrun⟩ := hm hq
  refine ⟨trivial, fun p => ?_⟩
  obtain ⟨q, hp⟩ := hrun p
  exact ⟨q, run_bind_error hp⟩

/-- A piece that leaves the host where it stands. -/
theorem of_run {u : EStateM.Result Stop State α} (hu : s.Quiet → GoesOnQuiet u)
    (h : s.Quiet → ∀ p, m.run (s.withHostPos p) = placed p u) : Runs m s u :=
  fun hq => ⟨hu hq, fun p => ⟨p, h hq p⟩⟩

theorem pure (a : α) : Runs (Pure.pure a : M α) s (.ok a s) := .of_run id fun _ _ => rfl

theorem raise (x : Fault) : Runs (Machine.raise x : M α) s (.error (.fault x) s) :=
  .of_run (fun _ => trivial) fun _ _ => rfl

theorem refuse (x : Refusal) : Runs (Machine.refuse x : M α) s (.error (.refuse x) s) :=
  .of_run (fun _ => trivial) fun _ _ => rfl

theorem stayAt (p : HostPos) : Runs (Machine.stayAt p : M α) s (.error (.hold p) s) :=
  .of_run (fun _ => trivial) fun _ _ => rfl

/-- What is read does not depend on the host's position. -/
theorem get_bind {f : State → M β} (h : Runs (f s) s r)
    (hf : ∀ p, f (s.withHostPos p) = f s := by exact fun _ => rfl) : Runs (get >>= f) s r := by
  intro hq
  obtain ⟨hr, hrun⟩ := h hq
  refine ⟨hr, fun p => ?_⟩
  rw [run_bind_ok (run_get_ok _), hf]
  exact hrun p

theorem write {g : State → State} (hpos : ∀ p, g (s.withHostPos p) = (g s).withHostPos p := by exact fun _ => rfl)
    (hsched : (g s).env.sched = s.env.sched := by exact rfl) : Runs (modify g) s (.ok () (g s)) :=
  .of_run (fun hq => hsched.trans hq) fun _ p => congrArg (EStateM.Result.ok ()) (hpos p)

/-- An update, then the rest. -/
theorem update {g : State → State} (hk : Runs k (g s) r)
    (hpos : ∀ p, g (s.withHostPos p) = (g s).withHostPos p := by exact fun _ => rfl)
    (hsched : (g s).env.sched = s.env.sched := by exact rfl) : Runs (modify g >>= fun _ => k) s r :=
  (write hpos hsched).seq hk

theorem tick : Runs tick s (.ok () s) := .of_run id fun hq _ => tick_run_quiet hq

theorem atLine (op : Byte) (n : Nat) : Runs (atLine op n) s (.ok () s) :=
  fun hq => ⟨hq, fun p => ⟨_, atLine_run_quiet (s := s.withHostPos p) hq op n⟩⟩

/-- A numbered line of a command, then the rest. -/
theorem line {op : Byte} {n : Nat} (hk : Runs k s r) : Runs (Machine.atLine op n >>= fun _ => k) s r :=
  (atLine op n).seq hk

/-- A point between two lines, then the rest. -/
theorem point (hk : Runs k s r) : Runs (Machine.tick >>= fun _ => k) s r := tick.seq hk

theorem ite_pos {c : Prop} [Decidable c] {m n : M β} (hc : c) (hm : Runs m s r) : Runs (if c then m else n) s r := by
  rwa [if_pos hc]

theorem ite_neg {c : Prop} [Decidable c] {m n : M β} (hc : ¬c) (hn : Runs n s r) : Runs (if c then m else n) s r := by
  rwa [if_neg hc]

/-- A register that holds a value, then the rest. -/
theorem readReg {no : Nat} {o : Option α} (ho : o = some a) (hf : Runs (f a) s r) :
    Runs (Machine.readReg no o >>= f) s r := by
  subst ho
  exact (pure a).bind hf

theorem of_eq {u : EStateM.Result Stop State β} (hk : Runs k s u) (hu : u = r) : Runs k s r := hu ▸ hk

theorem atomic {m : M α} (hm : Runs m (s.onIrq fun q => { q with ie := false }) (.ok a t)) :
    Runs (Machine.atomic m) s (.ok a (t.onIrq fun q => { q with ie := s.irq.ie })) :=
  .get_bind <| .update <| hm.bind <| .update <| .pure a

/-- A body that goes on, for each element of a list. -/
theorem forEach {body : α → M Unit} {g : α → State → State} {P : State → Prop}
    (hbody : ∀ a u, P u → Runs (body a) u (.ok () (g a u))) (hP : ∀ a u, P u → P (g a u)) (as : List α) (hs : P s) :
    Runs (Machine.forEach body as) s (.ok () (as.foldl (fun u a => g a u) s)) := by
  induction as generalizing s with
  | nil => exact pure ()
  | cons a as ih => exact (hbody a s hs).seq (ih (hP a s hs))

end Runs

/-! ### How a command ends -/

/-- What the host's command with opcode `op` leaves (R9, R104, R106, R107, R114). -/
def ended (op : Byte) : EStateM.Result Stop State Status → State
  | .ok st t => t.returned op st
  | .error (.fault f) t => t.faultedWith f
  | .error (.refuse x) t => t.refusedWith x
  | .error (.hold p) t => { t with hostPos := p }

theorem Runs.resumed {body : M Status} {r : EStateM.Result Stop State Status} (h : Runs body s r) (hq : s.Quiet)
    (op : Byte) (p : HostPos) : resumeCommand op body (s.withHostPos p) = ended op r := by
  obtain ⟨-, hrun⟩ := h hq
  obtain ⟨q, hp⟩ := hrun p
  match r with
  | .ok st t => exact resumeCommand_of_return (t := t.withHostPos q) hp
  | .error (.fault f) t => exact resumeCommand_of_fault (t := t.withHostPos q) hp
  | .error (.refuse x) t => exact resumeCommand_of_refusal (t := t.withHostPos q) hp
  | .error (.hold p') t => exact resumeCommand_of_hold (t := t.withHostPos q) hp

/-- The host's command with no agent scheduled. -/
theorem Runs.exec {i : Instr} {r : EStateM.Result Stop State Status} (h : Runs (commandBody i) s r) (hq : s.Quiet) :
    exec i s = .next (ended i.opcode r) := by
  rw [exec_eq, runCommand_eq_resume, h.resumed hq]

/-- The host goes on at a hold with no agent scheduled (R114). -/
theorem Runs.step_held {r : EStateM.Result Stop State Status} (hs : s.HeldQuiet) (hpos : s.hostPos.IsHold)
    (h : Runs (heldBody s.hostPos) s r) : step s = .next (ended (heldOpcode s.hostPos) r) := by
  have hq : s.Quiet := hs.2.2.1
  have hfair : Runs fairWhenUnscheduled s (.ok () s) := .of_run id fun _ p => fairWhenUnscheduled_run_held (by exact hs)
  rw [step_of_held hs hpos.1, goOn_eq hpos]
  exact congrArg _ ((hfair.seq h).resumed hq _ s.hostPos)

/-- A command that the host issues inside another (R91). -/
theorem Runs.issue {op : Byte} {body : M Status} {st : Status} (h : Runs body s (.ok st t)) :
    Runs (issue op body) s (.ok () (t.nestedReturn op st)) := by
  intro hq
  obtain ⟨ht, hrun⟩ := h hq
  refine ⟨ht, fun p => ⟨p, ?_⟩⟩
  obtain ⟨q, hp⟩ := hrun (.line op 1)
  exact issue_run_ok (s := s.withHostPos p) (t := t.withHostPos q) hp

theorem Runs.issue_error {op : Byte} {body : M Status} {e : Stop} (h : Runs body s (.error e t)) :
    Runs (Machine.issue op body) s (.error e t) := by
  intro hq
  obtain ⟨-, hrun⟩ := h hq
  refine ⟨trivial, fun p => ?_⟩
  obtain ⟨q, hp⟩ := hrun (.line op 1)
  exact ⟨q, issue_run_error (s := s.withHostPos p) (t := t.withHostPos q) hp⟩

theorem Runs.command {op : Byte} {body : M Status} {st : Status} (h : Runs body s (.ok st t)) :
    Runs (command op body) s (.ok () (t.nestedReturn op st)) := h.bind <| .update .write

end Sys2Proof.Machine

/-! PROOF. The radio half's commands with no other agent scheduled (R66 to R69, R75 to R78). -/

namespace Sys2Proof.Machine

variable {α : Type} {s t : State} {n : Nat} {w : Fin 3}

/-! ### The shared procedures -/

theorem runs_rxStartIfNeeded (hn : s.ring.freeCount = some n) (hw : s.ring.writeIdx = some w) :
    Runs rxStartIfNeeded s (.ok () (s.rxStarted w n)) :=
  .of_run (fun hq => (congrArg Env.sched (State.rxStarted_env w n)).trans hq) fun hq p =>
    (rxStartIfNeeded_run_quiet (s := s.withHostPos p) hq hn hw).trans (by rw [State.withHostPos_rxStarted]; rfl)

theorem runs_rxStopHw : Runs (rxStopHw false) s (.ok () (s.rxStopped false)) :=
  .of_run id fun hq p => rxStopHw_clear_run_quiet (s := s.withHostPos p) hq

theorem runs_applyTable {tbl : List Byte} (h : (rfEntries s.cfg.rfSentinel tbl).isSome = true) :
    Runs (applyTable tbl) s (.ok () (s.rfApplied (rfTable s.cfg tbl))) :=
  .of_run id fun hq p => applyTable_run_quiet (s := s.withHostPos p) hq h

/-- The gain code `code` of index `idx` written (R59). -/
def State.powerSet (idx : Nat) (code : Byte) (s : State) : State :=
  { s with
    radio := { s.radio with txPowerIdx := some idx }, xreg := s.xreg.write s.cfg.regPatable.toNat code,
    trace := s.trace ++ [.busWrite s.cfg.regPatable code] }

theorem runs_setPaHw {d : Int} {code : Byte} (h : s.cfg.paCode[paIndex d]? = some code) :
    Runs (setPaHw d) s (.ok () (s.powerSet (paIndex d) code)) :=
  .of_run id fun hq p => setPaHw_run_quiet (s := s.withHostPos p) hq h

theorem runs_busReadId {id : Byte} {ids : List Byte} (h : s.env.idBytes = id :: ids) :
    Runs busReadId s (.ok id ((s.onEnv fun v => { v with idBytes := ids }).emit (.busRead s.cfg.regId id))) := by
  have hdraw : Runs drawId s (.ok id (s.onEnv fun v => { v with idBytes := ids })) :=
    .of_run (fun hq => hq) fun _ p => by rw [drawId_run, State.withHostPos_env, h]; rfl
  exact .get_bind <| hdraw.bind <| .update <| .pure id

theorem runs_drawAck {ack : Option Byte} {acks : List (Option Byte)} (h : s.env.acks = ack :: acks) :
    Runs drawAck s (.ok ack (s.onEnv fun v => { v with acks := acks })) :=
  .of_run (fun hq => hq) fun _ p => by rw [drawAck_run, State.withHostPos_env, h]; rfl

theorem runs_setFreeCount {v : Nat} (hv : v ≤ 3) :
    Runs (setFreeCount v) s (.ok () (s.onRing fun r => { r with freeCount := some v })) :=
  .ite_pos (by omega) .write

/-- The gain-code index of R59, its clamp in terms of `min` and `max`. -/
theorem paIndex_eq (d : Int) : paIndex d = ((max (-30) (min d 10) + 30) / 2).toNat := by
  have hclamp : clampDbm d = max (-30) (min d 10) := by
    rw [clampDbm]
    omega
  rw [paIndex, hclamp]

/-- An open gate (R56), outside test mode where the command is not allowed in it (R57). -/
theorem Runs.gated {op : Byte} {allowsTest : Bool} {onClosed : M Unit} {body : M Status}
    {r : EStateM.Result Stop State Status} (hgate : radioGate s.radio = .ok)
    (htest : allowsTest = false → s.radio.freqTest = false) (hb : Runs body s r) :
    Runs (gated op allowsTest onClosed body) s r := by
  refine .line <| .get_bind <| .ite_neg (by simp [hgate]) ?_
  cases allowsTest with
  | true => exact .ite_pos rfl hb
  | false => exact .ite_neg Bool.false_ne_true <| .line <| .get_bind <| .ite_neg (by simp [htest rfl]) hb

theorem rfEntries_isSome_of_paramsOk {p : Params} (h : paramsOk p = true) :
    (rfEntries p.rfSentinel p.tableLow).isSome = true ∧ (rfEntries p.rfSentinel p.tableHigh).isSome = true ∧
      (rfEntries p.rfSentinel p.tableTest).isSome = true := by
  simp only [paramsOk, Bool.and_eq_true] at h
  tauto

/-! ### The commands -/

theorem runs_radioInit_of_wrong {id : Byte} {ids : List Byte} (hid : s.env.idBytes = id :: ids)
    (hne : id ≠ s.cfg.chipIdExpected) :
    Runs radioInit s (.ok .hwNotFound { s with
      env := { s.env with idBytes := ids },
      radio := { s.radio with probed := true, present := false, initialized := false, enabled := false },
      arb := { s.arb with rxArmed := false, radioState := .idle },
      irq := { s.irq with rxDonePending := false },
      trace := s.trace ++ [.strobe .sres, .busRead s.cfg.regId id] }) := by
  refine .of_eq (.get_bind <| .line <| (Runs.atomic <| .update .write).seq <| .line <| .update <| .line <| .update <|
    .line <| (runs_busReadId (by exact hid)).bind <| .line <| .ite_pos hne <| .line <| .update <| .line <| .pure _) ?_
  simp [State.emit, State.onEnv, State.onRadio, State.onArb, State.onIrq]

theorem runs_radioInit {ids : List Byte} {code : Byte} (hid : s.env.idBytes = s.cfg.chipIdExpected :: ids)
    (hcfg : paramsOk s.cfg = true) (hcode : s.cfg.paCode[paIndex s.cfg.initTxDbm.toInt]? = some code) :
    Runs radioInit s (.ok .ok { s with
      env := { s.env with idBytes := ids },
      radio :=
        { probed := true, present := true, initialized := true, enabled := true, freqTest := false,
          irqRaisedRx := false, cfgPtr := .high, curBand := some .high, curChanr := none,
          txPowerIdx := some (paIndex s.cfg.initTxDbm.toInt) },
      arb := { s.arb with
                rxEnabled := false, rxArmed := false, radioState := .idle, txDone := false, txFrame := [] },
      ring := { s.ring with writeIdx := some 0, readIdx := some 0, freeCount := some 3 },
      irq := { s.irq with rxDonePending := false },
      xreg :=
        Memory.write ((rfTable s.cfg s.cfg.tableHigh).foldl (fun m e => m.write e.1.toNat e.2) s.xreg)
          s.cfg.regPatable.toNat code,
      trace := s.trace ++ [.strobe .sres, .busRead s.cfg.regId s.cfg.chipIdExpected] ++
        (rfTable s.cfg s.cfg.tableHigh).map (fun e => .busWrite e.1 e.2) ++ [.busWrite s.cfg.regPatable code] }) := by
  have htable := (rfEntries_isSome_of_paramsOk hcfg).2.1
  refine .of_eq (.get_bind <| .line <| (Runs.atomic <| .update .write).seq <| .line <| .update <| .line <| .update <|
    .line <| (runs_busReadId (by exact hid)).bind <| .line <| .ite_neg (by exact not_not.2 rfl) <|
    .line <| .update <| .line <| .update <| .point <| (runs_applyTable (by exact htable)).seq <|
    .line <| (runs_setPaHw (by exact hcode)).seq <| .line <| (Runs.atomic .write).seq <| .line <| .update <| .update <|
    .line <| .update <| .line <| .pure _) ?_
  simp [State.emit, State.onEnv, State.onRadio, State.onArb, State.onIrq, State.onRing, State.rfApplied, State.powerSet,
    ringN, signedOperand]

/-- The band's table is applied where the configuration pointer is elsewhere (R67 line 6). -/
theorem runs_selectBand (hcfg : paramsOk s.cfg = true) (b : Band) :
    Runs (selectBand b) s (.ok () (if s.radio.cfgPtr = bandPtr b then s else
      (s.onRadio fun r => { r with cfgPtr := bandPtr b }).rfApplied (rfTable s.cfg (bandTable s.cfg b)))) := by
  obtain ⟨hlow, hhigh, -⟩ := rfEntries_isSome_of_paramsOk hcfg
  have htable : (rfEntries s.cfg.rfSentinel (bandTable s.cfg b)).isSome = true := by
    cases b with
    | low => exact hlow
    | high => exact hhigh
  refine .get_bind ?_
  by_cases hptr : s.radio.cfgPtr = bandPtr b
  · rw [if_pos hptr]
    exact .ite_neg (not_not.2 hptr) (.pure ())
  · rw [if_neg hptr]
    exact .ite_pos hptr <| .update <| .point <| runs_applyTable htable

/-- The channel's band and value in terms of the two ranges; by R2 the value fits a byte. -/
theorem channelOf_of_ranges {p : Params} {ch : Byte} {b : Band} {c : Nat}
    (hwidth : (p.lowLast.toNat - p.lowFirst.toNat) * 3 ≤ 255 ∧ (p.highLast.toNat - p.highFirst.toNat) * 12 ≤ 255)
    (hbc : (b, c) = if p.lowFirst.toNat ≤ ch.toNat ∧ ch.toNat ≤ p.lowLast.toNat then
        (Band.low, (ch.toNat - p.lowFirst.toNat) * 3)
      else if p.highFirst.toNat ≤ ch.toNat ∧ ch.toNat ≤ p.highLast.toNat then
        (Band.high, (ch.toNat - p.highFirst.toNat) * 12)
      else (Band.high, 0)) :
    c ≤ 255 ∧ channelOf p ch = (b, BitVec.ofNat 8 c) := by
  obtain ⟨hlow, hhigh⟩ := hwidth
  simp only [channelOf, inLowBand, inHighBand, decide_eq_true_eq]
  split at hbc
  · next h =>
    obtain ⟨rfl, rfl⟩ := Prod.mk.inj hbc
    exact ⟨by omega, if_pos h⟩
  · next h =>
    rw [if_neg h]
    split at hbc
    · next h =>
      obtain ⟨rfl, rfl⟩ := Prod.mk.inj hbc
      exact ⟨by omega, if_pos h⟩
    · next h =>
      obtain ⟨rfl, rfl⟩ := Prod.mk.inj hbc
      exact ⟨by omega, if_neg h⟩

theorem runs_bandTests (ch : Byte) : Runs (bandTests ch) s (.ok () s) := by
  refine .get_bind <| .line ?_
  by_cases hlow : inLowBand s.cfg ch = true
  · exact .ite_pos hlow <| .pure ()
  · refine .ite_neg hlow <| .line ?_
    by_cases hhigh : inHighBand s.cfg ch = true
    · exact .ite_pos hhigh <| .pure ()
    · exact .ite_neg hhigh <| .atLine _ _

theorem runs_radioSetChannel (hgate : radioGate s.radio = .ok) (htest : s.radio.freqTest = false)
    (hcfg : paramsOk s.cfg = true) (ch : Byte) {es : List (Byte × Byte)}
    (hes : es = if s.radio.cfgPtr = bandPtr (channelOf s.cfg ch).1 then []
      else rfTable s.cfg (bandTable s.cfg (channelOf s.cfg ch).1)) :
    Runs (radioSetChannel ch) s (.ok .ok { s with
      radio := { s.radio with
                  cfgPtr := bandPtr (channelOf s.cfg ch).1, curBand := some (channelOf s.cfg ch).1,
                  curChanr := some (channelOf s.cfg ch).2 },
      xreg := Memory.write (es.foldl (fun m e => m.write e.1.toNat e.2) s.xreg) s.cfg.regChannr.toNat
        (channelOf s.cfg ch).2,
      trace := s.trace ++ es.map (fun e => .busWrite e.1 e.2) ++
        [.busWrite s.cfg.regChannr (channelOf s.cfg ch).2] }) := by
  have hselect := runs_selectBand hcfg (channelOf s.cfg ch).1
  split at hes
  · next hptr =>
    rw [if_pos hptr] at hselect
    refine .of_eq (.gated hgate (fun _ => htest) <| .get_bind <| (runs_bandTests ch).seq <| .line <| hselect.seq <|
      .line <| .update <| .line <| .update <| .update <| .line <| .pure _) ?_
    simp [hes, State.onRadio, State.onXreg, State.emit, ← hptr]
  · next hptr =>
    rw [if_neg hptr] at hselect
    refine .of_eq (.gated hgate (fun _ => htest) <| .get_bind <| (runs_bandTests ch).seq <| .line <| hselect.seq <|
      .line <| .update <| .line <| .update <| .update <| .line <| .pure _) ?_
    simp [hes, State.onRadio, State.onXreg, State.emit, State.rfApplied]

theorem runs_radioSetTxPower (hgate : radioGate s.radio = .ok) (dBm : Byte) {code : Byte}
    (hcode : s.cfg.paCode[paIndex dBm.toInt]? = some code) :
    Runs (radioSetTxPower dBm) s (.ok .ok (s.powerSet (paIndex dBm.toInt) code)) :=
  .gated hgate nofun <| .line <| (runs_setPaHw hcode).seq <| .line <| .pure _

theorem runs_radioRxAckGetLast (hgate : radioGate s.radio = .ok) (htest : s.radio.freqTest = false) {ack : Option Byte}
    {acks : List (Option Byte)} (hack : s.env.acks = ack :: acks) :
    Runs radioRxAckGetLast s (.ok .ok ((s.onEnv fun v => { v with acks := acks }).onRes fun r =>
      { r with value := some (ackValue ack) })) :=
  .gated hgate (fun _ => htest) <| .line <| (runs_drawAck hack).bind <| .line <| .update <| .line <| .pure _

theorem runs_platformSetRadioEnabled (on : Bool) :
    Runs (platformSetRadioEnabled on) s (.ok .ok (s.onRadio fun r => { r with enabled := on })) :=
  .line <| .update <| .line <| .pure _

theorem runs_radioFlush (hgate : radioGate s.radio = .ok) (htest : s.radio.freqTest = false)
    (hn : s.ring.freeCount = some n) (hw : s.ring.writeIdx = some w) :
    Runs radioFlush s (.ok .ok (if n = 0 then (s.onRing fun r => { r with freeCount := some 3 }).rxStarted w 3
      else s.onRing fun r => { r with freeCount := some 3 })) := by
  have hflush : Runs flushRing s (.ok (decide (n = 0)) (s.onRing fun r => { r with freeCount := some 3 })) :=
    .get_bind <| .readReg hn <| (Runs.atomic (runs_setFreeCount (Nat.le_refl 3))).seq <| .pure _
  refine .gated hgate (fun _ => htest) <| .line <| hflush.bind <| .line ?_
  by_cases hfull : n = 0
  · rw [if_pos hfull]
    exact .ite_pos (decide_eq_true hfull) <| (runs_rxStartIfNeeded (by exact rfl) (by exact hw)).seq <| .line <| .pure _
  · rw [if_neg hfull]
    exact .ite_neg (by simpa using hfull) <| .line <| .pure _

theorem runs_radioEnableRx_on (hgate : radioGate s.radio = .ok) (htest : s.radio.freqTest = false)
    (hoff : s.arb.rxEnabled = false) (hn : s.ring.freeCount = some n) (hw : s.ring.writeIdx = some w) :
    Runs (radioEnableRx true) s (.ok .ok ((s.onArb fun a => { a with rxEnabled := true }).rxStarted w n)) :=
  .gated hgate (fun _ => htest) <| .line <| .ite_neg nofun <| .line <| .get_bind <| .ite_pos hoff <| .line <| .update <|
    .line <| (runs_rxStartIfNeeded (by exact hn) (by exact hw)).seq <| .line <| .pure _

theorem runs_radioEnableRx_again (hgate : radioGate s.radio = .ok) (htest : s.radio.freqTest = false)
    (hon : s.arb.rxEnabled = true) : Runs (radioEnableRx true) s (.ok .ok s) :=
  .gated hgate (fun _ => htest) <| .line <| .ite_neg nofun <| .line <| .get_bind <| .ite_neg (by simp [hon]) <|
    .line <| .pure _

theorem runs_radioEnableRx_off (hgate : radioGate s.radio = .ok) (htest : s.radio.freqTest = false) :
    Runs (radioEnableRx false) s (.ok .ok { s.rxStopped false with
      radio := { s.radio with irqRaisedRx := false },
      arb := { s.arb with
                rxEnabled := false, rxArmed := false,
                radioState := if s.arb.radioState = .rx then .idle else s.arb.radioState } }) :=
  .gated hgate (fun _ => htest) <| .line <| .ite_pos rfl <| .line <|
    (Runs.atomic <| runs_rxStopHw.seq <| .point <| .update .write).seq <| .line <| .pure _

/-! ### The carrier-wave test mode -/

theorem runs_radioSetFreqTest_enter (hgate : radioGate s.radio = .ok) (hcfg : paramsOk s.cfg = true)
    (htest : s.radio.freqTest = false) :
    Runs (radioSetFreqTest true) s (.ok .ok (State.rfApplied (rfTable s.cfg s.cfg.tableTest)
      { s.rxStopped false with radio := { s.radio with freqTest := true, cfgPtr := .test } })) :=
  .gated hgate nofun <| .line <| .get_bind <| .ite_pos ⟨rfl, htest⟩ <| .seq
    (.get_bind <| .line <| runs_rxStopHw.seq <| .line <| .update <| .point <|
      runs_applyTable (rfEntries_isSome_of_paramsOk hcfg).2.2) <|
    .line <| .pure _

theorem runs_radioSetFreqTest_same (hgate : radioGate s.radio = .ok) {on : Bool} (htest : s.radio.freqTest = on) :
    Runs (radioSetFreqTest on) s (.ok .ok s) :=
  .gated hgate nofun <| .line <| .get_bind <| .ite_neg (by rw [htest]; cases on <;> decide) <| .line <| .get_bind <|
    .ite_neg (by rw [htest]; cases on <;> decide) <| .line <| .pure _

/-- The band's table applied again and the channel register rewritten if it was set (R69 lines 6 and 7). -/
theorem runs_leaveFreqTest (hcfg : paramsOk s.cfg = true) {b : Band} (hb : s.radio.curBand = some b)
    (hn : s.ring.freeCount = some n) (hw : s.ring.writeIdx = some w) {last : List (Byte × Byte)}
    (hlast : last = s.radio.curChanr.toList.map fun c => (s.cfg.regChannr, c)) :
    Runs leaveFreqTest s (.ok () (State.rxStarted w n (State.rfApplied (rfTable s.cfg (bandTable s.cfg b) ++ last)
      { s with radio := { s.radio with freqTest := false, cfgPtr := bandPtr b } }))) := by
  obtain ⟨hlow, hhigh, -⟩ := rfEntries_isSome_of_paramsOk hcfg
  have htable : (rfEntries s.cfg.rfSentinel (bandTable s.cfg b)).isSome = true := by
    cases b with
    | low => exact hlow
    | high => exact hhigh
  refine .line <| .get_bind <| .readReg hb <| .update <| .point <| (runs_applyTable (by exact htable)).seq <| .line ?_
  cases hc : s.radio.curChanr with
  | none =>
    obtain rfl : last = [] := by rw [hlast, hc]; rfl
    rw [List.append_nil]
    exact .line <| runs_rxStartIfNeeded (by exact hn) (by exact hw)
  | some c =>
    obtain rfl : last = [(s.cfg.regChannr, c)] := by rw [hlast, hc]; rfl
    refine .of_eq (.update <| .update <| .line <| runs_rxStartIfNeeded (by exact hn) (by exact hw)) ?_
    simp [State.rfApplied, State.onXreg, State.emit, State.onRadio]

theorem runs_radioSetFreqTest_leave (hgate : radioGate s.radio = .ok) (hcfg : paramsOk s.cfg = true)
    (htest : s.radio.freqTest = true) {b : Band} (hb : s.radio.curBand = some b) (hn : s.ring.freeCount = some n)
    (hw : s.ring.writeIdx = some w) {last : List (Byte × Byte)}
    (hlast : last = s.radio.curChanr.toList.map fun c => (s.cfg.regChannr, c)) :
    Runs (radioSetFreqTest false) s (.ok .ok (State.rxStarted w n
      (State.rfApplied (rfTable s.cfg (bandTable s.cfg b) ++ last)
        { s with radio := { s.radio with freqTest := false, cfgPtr := bandPtr b } }))) :=
  .gated hgate nofun <| .line <| .get_bind <| .ite_neg nofun <| .line <| .get_bind <| .ite_pos ⟨rfl, htest⟩ <|
    (runs_leaveFreqTest hcfg hb hn hw hlast).seq <| .line <| .pure _

end Sys2Proof.Machine

namespace Sys2Proof

open Sys2Proof.Machine

/-- Settles O19: the identity byte decides, and the rest is the command's lines. -/
theorem radioInitProgramsOrFails : Obligations.RadioInitProgramsOrFails := by
  intro s id ids hq hid
  refine ⟨fun hne => Runs.exec (i := .radioInit) (runs_radioInit_of_wrong hid hne) hq,
    fun idx code heq hcfg hidx hcode => ?_⟩
  subst heq
  rw [← paIndex_eq] at hidx
  subst hidx
  exact Runs.exec (i := .radioInit) (runs_radioInit hid hcfg hcode) hq

/-- Settles O20: the band and the channel's value are `channelOf`'s, whose value fits a byte by R2. -/
theorem setChannelSelectsBandAndRegister : Obligations.SetChannelSelectsBandAndRegister := by
  intro s ch b c ptr es hq hgate htest hcfg hbc hptr hes
  obtain ⟨hc, hchannel⟩ := channelOf_of_ranges ((paramsOk_iff s.cfg).1 hcfg).2.2.1 hbc
  have hrun := runs_radioSetChannel hgate htest hcfg ch rfl
  rw [hchannel] at hrun
  subst hptr hes
  refine ⟨hc, (Runs.exec (i := .radioSetChannel ch) hrun hq).trans ?_⟩
  cases b <;> rfl

/-- Settles O21: the index is R59's, and the table has 21 codes. -/
theorem setTxPowerWritesTheClampedCode : Obligations.SetTxPowerWritesTheClampedCode := by
  intro s dBm idx hq hgate hcfg hidx
  have hpa : paIndex dBm.toInt = idx := by rw [paIndex_eq, ← hidx, Int.toNat_natCast]
  have hle : idx ≤ 20 := hpa ▸ paIndex_le_20 dBm.toInt
  have hlen : s.cfg.paCode.length = 21 := ((paramsOk_iff s.cfg).1 hcfg).1.2.1
  have hcode : s.cfg.paCode[idx]? = some s.cfg.paCode[idx] := List.getElem?_eq_getElem (by omega)
  subst hpa
  exact ⟨hle, _, hcode, Runs.exec (i := .radioSetTxPower dBm) (runs_radioSetTxPower hgate dBm hcode) hq⟩

/-- Settles O22: entering, leaving and the repeated request. -/
theorem freqTestEntersAndLeaves : Obligations.FreqTestEntersAndLeaves := by
  intro s hq hgate hcfg
  refine ⟨fun htest => Runs.exec (i := .radioSetFreqTest true) (runs_radioSetFreqTest_enter hgate hcfg htest) hq,
    fun on htest => Runs.exec (i := .radioSetFreqTest on) (runs_radioSetFreqTest_same hgate htest) hq,
    fun b n w htest hb hn hw => ?_⟩
  rw [Runs.exec (i := .radioSetFreqTest false) (runs_radioSetFreqTest_leave hgate hcfg htest hb hn hw rfl) hq]
  cases b <;> cases s.radio.curChanr <;> rfl

/-- Settles O25: turning on, turning on again, and turning off. -/
theorem enableRxTurnsReceptionOnAndOff : Obligations.EnableRxTurnsReceptionOnAndOff := fun _ hq hgate htest =>
  ⟨fun _ _ hoff hn hw => Runs.exec (i := .radioEnableRx true) (runs_radioEnableRx_on hgate htest hoff hn hw) hq,
    fun hon => Runs.exec (i := .radioEnableRx true) (runs_radioEnableRx_again hgate htest hon) hq,
    Runs.exec (i := .radioEnableRx false) (runs_radioEnableRx_off hgate htest) hq⟩

/-- Settles O28: the count is set, and receive started where the ring was full. -/
theorem flushFreesEverySlot : Obligations.FlushFreesEverySlot := fun _ _ _ hq hgate htest hn hw =>
  Runs.exec (i := .radioFlush) (runs_radioFlush hgate htest hn hw) hq

/-- Settles O29: the drawn answer is reported. -/
theorem ackAnswersTheDrawnNumber : Obligations.AckAnswersTheDrawnNumber := by
  intro s ack acks hq hgate htest hack
  rw [Runs.exec (i := .radioRxAckGetLast) (runs_radioRxAckGetLast hgate htest hack) hq]
  cases ack <;> rfl

/-- Settles O30: one line writes the flag. -/
theorem platformSetsTheEnabledFlag : Obligations.PlatformSetsTheEnabledFlag := fun _ on hq =>
  Runs.exec (i := .platformSetRadioEnabled on) (runs_platformSetRadioEnabled on) hq

end Sys2Proof

/-! PROOF. RADIO_TRANSMIT with no other agent scheduled (R61, R70, R71, R114). Its end is the polls' closed form; the
particular ends are read off that form. -/

namespace Sys2Proof.Machine

variable {s t : State} {n : Nat} {w : Fin 3} {v v1 v2 m : U16} {vs : List U16} {k : Bool} {ks : List Bool}

/-! ### HOST reads -/

theorem runs_hostRead {a : Nat} {b : Byte} (ha : a < s.cfg.hostMemSize) (hb : s.hostMem.read a = some b) :
    Runs (hostRead a) s (.ok b s) :=
  .of_run id fun _ p => by rw [hostRead_run, if_neg (by exact Nat.not_le.2 ha), State.withHostPos_hostMem, hb]; rfl

theorem runs_hostRead_of_range {a : Nat} (ha : s.cfg.hostMemSize ≤ a) :
    Runs (hostRead a) s (.error (.fault (.range .host a)) s) :=
  .of_run (fun _ => trivial) fun _ p => by rw [hostRead_run, if_pos (by exact ha)]; rfl

theorem runs_hostRead_of_unwritten {a : Nat} (ha : a < s.cfg.hostMemSize) (hb : s.hostMem.read a = none) :
    Runs (hostRead a) s (.error (.fault (.unwritten .host a)) s) :=
  .of_run (fun _ => trivial) fun _ p => by
    rw [hostRead_run, if_neg (by exact Nat.not_le.2 ha), State.withHostPos_hostMem, hb]
    rfl

theorem runs_hostReadBytes {a : Nat} {bs : List Byte} (hh : s.HostHolds a bs) :
    Runs (hostReadBytes a bs.length) s (.ok bs s) :=
  .of_run id fun _ p => hostReadBytes_run_of_holds (s := s.withHostPos p) hh

theorem State.HostHolds.head {a : Nat} {b : Byte} {bs : List Byte} (hh : s.HostHolds a (b :: bs)) :
    a < s.cfg.hostMemSize ∧ s.hostMem.read a = some b := by
  obtain ⟨hsize, hread⟩ := hh
  rw [List.length_cons] at hsize
  exact ⟨by omega, hread 0 (Nat.succ_pos _)⟩

theorem State.HostHolds.tail {a : Nat} {b : Byte} {bs : List Byte} (hh : s.HostHolds a (b :: bs)) :
    s.HostHolds (a + 1) bs := by
  obtain ⟨hsize, hread⟩ := hh
  rw [List.length_cons] at hsize hread
  refine ⟨by omega, fun i hi => ?_⟩
  rw [Nat.add_right_comm, Nat.add_assoc, hread (i + 1) (by omega)]
  rfl

/-- A run of reads stops where the read after the bytes that HOST holds stops. -/
theorem runs_hostReadBytes_stop {e : Stop} {bs : List Byte} (more : Nat) {a : Nat} (hh : s.HostHolds a bs)
    (hstop : Runs (hostRead (a + bs.length)) s (.error e s)) :
    Runs (hostReadBytes a (bs.length + (more + 1))) s (.error e s) := by
  induction bs generalizing a with
  | nil =>
    rw [List.length_nil, Nat.zero_add]
    exact hstop.stop
  | cons b bs ih =>
    rw [List.length_cons, Nat.add_right_comm]
    obtain ⟨ha, hb⟩ := hh.head
    refine (runs_hostRead ha hb).bind (ih hh.tail ?_).stop
    rwa [Nat.add_assoc, Nat.add_comm 1]

/-! ### The polls -/

theorem runs_adcSample : Runs adcSample s (.ok s.nextCode.1 { s with env := s.nextCode.2 }) := by
  refine .of_run (fun hq => ?_) fun _ p => ?_ <;> cases hadc : s.env.adc with
  | nil => simp_all [adcSample_run, State.nextCode, GoesOnQuiet, State.Quiet, placed, State.onEnv, State.withHostPos]
  | cons v vs =>
    simp_all [adcSample_run, State.nextCode, GoesOnQuiet, State.Quiet, placed, State.onEnv, State.withHostPos]

theorem runs_rxStopHw_keep (hk : s.env.keep = k :: ks) :
    Runs (rxStopHw true) s (.ok () ((s.rxStopped (s.irq.rxDonePending && k)).onEnv fun v => { v with keep := ks })) :=
  .of_run id fun hq p => rxStopHw_keep_run_quiet (s := s.withHostPos p) hq hk

theorem runs_txDoneStep : Runs (takeMove .txDone) s (.ok () s.txFinished) := by
  refine .of_run (fun hq => ?_) fun _ p => ?_
  · change s.txFinished.env.sched = []
    rw [State.txFinished]
    split <;> exact hq
  · rw [takeMove_txDone_run, State.txFinished]
    by_cases h : s.arb.radioState = .tx ∧ s.arb.txDone = false
    · rw [if_pos h, if_pos (by exact h)]
      rfl
    · rw [if_neg h, if_neg (by exact h)]
      rfl

theorem runs_xcvrBetweenPolls : Runs xcvrBetweenPolls s (.ok () s.betweenPolls) := by
  intro hq
  suffices h : Runs (if s.cfg.assumeXcvrLive = true then takeMove .txDone
      else do
        let d ← freeAnswer Config.txDoneNow
        if d = true then takeMove .txDone else Pure.pure ()) s (.ok () s.betweenPolls) by
    refine (Runs.get_bind (f := fun s => _) ?_) hq
    rw [show s.env.sched = [] from hq]
    exact h
  rw [State.betweenPolls]
  by_cases hlive : s.cfg.assumeXcvrLive = true
  · rw [if_pos hlive, if_pos hlive]
    exact runs_txDoneStep
  · rw [if_neg hlive, if_neg hlive]
    have hdraw : Runs (freeAnswer Config.txDoneNow) s (.ok (Config.txDoneNow s.env.draws) (s.drawn 1)) :=
      .of_run id fun _ _ => rfl
    refine hdraw.bind ?_
    by_cases hdone : Config.txDoneNow s.env.draws = true
    · rw [if_pos hdone, if_pos hdone]
      exact runs_txDoneStep
    · rw [if_neg hdone, if_neg hdone]
      exact .pure ()

/-- Lines 10 and 11: the next code joins the minimum. -/
theorem runs_poll {k : M Status} {r : EStateM.Result Stop State Status} (hm : s.arb.txMinBatt = some m)
    (hk : Runs k s.polled r) : Runs (do
      atLine 0x04#8 10
      atLine 0x04#8 11
      let v ← adcSample
      emit (.adc v)
      let s ← get
      let m ← readReg 15 s.arb.txMinBatt
      setArb fun a => { a with txMinBatt := some (if v.toNat < m.toNat then v else m) }
      k) s r := by
  have hpolled : s.polled = { s with
      env := s.nextCode.2,
      arb := { s.arb with txMinBatt := some (if s.nextCode.1.toNat < m.toNat then s.nextCode.1 else m) },
      trace := s.trace ++ [.adc s.nextCode.1] } := by rw [State.polled, hm]; rfl
  rw [hpolled] at hk
  exact .line <| .line <| runs_adcSample.bind <| .update <| .get_bind <| .readReg hm <| .update hk

/-- The end after TX done (R70 lines 15 to 18). -/
def State.sent (w : Fin 3) (n : Nat) (s : State) : State :=
  ((s.onArb fun a => { a with radioState := .idle }).rxStarted w n).onRes fun r => { r with value := some 1#16 }

/-- The end at the timeout (R70 line 14). -/
def State.givenUp (w : Fin 3) (n : Nat) (s : State) : State :=
  (((s.emit (.strobe .sidle)).onArb fun a => { a with radioState := .idle }).rxStarted w n).onRes fun r =>
    { r with value := some 0#16 }

theorem returned_sent : (s.sent w n).returned 0x04#8 .ok = s.transmitEnded w n := by
  simp only [State.sent, State.transmitEnded, State.onRes, State.rxStarted_res]
  rfl

theorem returned_givenUp : (s.givenUp w n).returned 0x04#8 .transmitFailed = s.transmitGivenUp w n := by
  simp only [State.givenUp, State.transmitGivenUp, State.onRes, State.rxStarted_res]
  rfl

theorem runs_transmitEnd (hn : s.ring.freeCount = some n) (hw : s.ring.writeIdx = some w) :
    Runs transmitEnd s (.ok .ok (s.sent w n)) :=
  .line <| .update <| .line <| (runs_rxStartIfNeeded (by exact hn) (by exact hw)).seq <| .line <| .update <| .line <|
    .pure _

theorem runs_transmitTimeout (hn : s.ring.freeCount = some n) (hw : s.ring.writeIdx = some w) :
    Runs transmitTimeout s (.ok .transmitFailed (s.givenUp w n)) :=
  .line <| .update <| .update <| .point <| (runs_rxStartIfNeeded (by exact hn) (by exact hw)).seq <| .point <| .update <|
    .pure _

/-- How the loop ends, `more` polls before the step of the model does. -/
def pollsResult (w : Fin 3) (n : Nat) : Nat → Nat → State → EStateM.Result Stop State Status
  | 0, polls, s => .error (.hold (.txPoll polls)) s
  | more + 1, polls, s =>
    if s.polled.arb.txDone = true then .ok .ok (s.polled.sent w n)
    else if timedOut s.polled.cfg (polls + 1) = true then .ok .transmitFailed (s.polled.givenUp w n)
    else pollsResult w n more (polls + 1) s.polled.betweenPolls

/-- The loop's ends are the closed form's. -/
theorem ended_pollsResult (more polls : Nat) :
    ended 0x04#8 (pollsResult w n more polls s) = State.pollsFrom w n more polls s := by
  induction more generalizing s polls with
  | zero => rfl
  | succ more ih =>
    rw [pollsResult, State.pollsFrom]
    split
    · exact returned_sent
    · split
      · exact returned_givenUp
      · exact ih _

/-- TX done leaves the ring and the minimum. -/
theorem txFinished_keeps : s.txFinished.ring = s.ring ∧ s.txFinished.arb.txMinBatt = s.arb.txMinBatt := by
  rw [State.txFinished]
  split <;> exact ⟨rfl, rfl⟩

theorem betweenPolls_keeps : s.betweenPolls.ring = s.ring ∧ s.betweenPolls.arb.txMinBatt = s.arb.txMinBatt := by
  rw [State.betweenPolls]
  split
  · exact txFinished_keeps
  · split
    · exact txFinished_keeps (s := s.drawn 1)
    · exact ⟨rfl, rfl⟩

theorem runs_transmitPolls (hn : s.ring.freeCount = some n) (hw : s.ring.writeIdx = some w)
    (hm : s.arb.txMinBatt = some m) (more polls : Nat) :
    Runs (transmitPolls more polls) s (pollsResult w n more polls s) := by
  induction more generalizing s polls m with
  | zero => exact .stayAt _
  | succ more ih =>
    refine runs_poll hm <| .line <| .get_bind ?_
    rw [pollsResult]
    by_cases hdone : s.polled.arb.txDone = true
    · rw [if_pos hdone, if_pos hdone]
      exact runs_transmitEnd hn hw
    · rw [if_neg hdone, if_neg hdone]
      refine .line ?_
      by_cases htime : timedOut s.polled.cfg (polls + 1) = true
      · rw [if_pos htime, if_pos htime]
        exact runs_transmitTimeout hn hw
      · rw [if_neg htime, if_neg htime]
        obtain ⟨hring, hmin⟩ := betweenPolls_keeps (s := s.polled)
        refine runs_xcvrBetweenPolls.seq (ih (m := if s.nextCode.1.toNat < m.toNat then s.nextCode.1 else m) ?_ ?_ ?_ _)
        · rw [hring]
          exact hn
        · rw [hring]
          exact hw
        · rw [hmin, State.polled, hm]
          rfl

/-- With no agent scheduled the loop is two polls long. -/
theorem runs_transmitLoop (hn : s.ring.freeCount = some n) (hw : s.ring.writeIdx = some w)
    (hm : s.arb.txMinBatt = some m) (polls : Nat) : Runs (transmitLoop polls) s (pollsResult w n 2 polls s) := by
  intro hq
  refine (Runs.get_bind ?_) hq
  rw [show s.env.sched.length = 0 by rw [show s.env.sched = [] from hq]; rfl]
  exact runs_transmitPolls hn hw hm 2 polls

/-! ### The command -/

/-- The state in which the polls begin (R70 lines 5 to 9). -/
def State.transmitting (pending : Bool) (frame : List Byte) (keep : List Bool) (s : State) : State :=
  { s.rxStopped pending with
    env := { s.env with keep := keep },
    arb :=
      { rxEnabled := s.arb.rxEnabled, rxArmed := false, radioState := .tx, txDone := false, txFrame := frame,
        txMinBatt := some 0xFFFF#16 },
    trace := s.trace ++ [.strobe .sidle, .strobe .stx] }

section Transmit

variable (hgate : radioGate s.radio = .ok) (htest : s.radio.freqTest = false) (buf : U16)
include hgate htest

theorem runs_radioTransmit_of_badLength {len : Byte} (hh : s.HostHolds buf.toNat [len])
    (hlen : len = 0#8 ∨ s.cfg.maxPayload < len.toNat) :
    Runs (radioTransmit buf) s (.ok .badOperand (s.onRes fun r => { r with value := some 0#16 })) := by
  have hbad : lengthValid s.cfg len = false := by
    rw [lengthValid, decide_eq_false_iff_not]
    rcases hlen with rfl | hlen
    · exact fun h => absurd h.1 (by decide)
    · omega
  exact .gated hgate (fun _ => htest) <| .get_bind <| .line <| (runs_hostRead hh.head.1 hh.head.2).bind <| .line <|
    .ite_pos hbad <| .update <| .pure _

theorem runs_radioTransmit_of_lengthFault {e : Stop} (h : Runs (hostRead buf.toNat) s (.error e s)) :
    Runs (radioTransmit buf) s (.error e s) :=
  .gated hgate (fun _ => htest) <| .get_bind <| .line h.stop

theorem runs_radioTransmit_of_frameFault {len : Byte} {pre : List Byte} {e : Stop}
    (hh : s.HostHolds buf.toNat (len :: pre)) (hmax : len.toNat ≤ s.cfg.maxPayload) (hlen : pre.length < len.toNat)
    (hk : s.env.keep = k :: ks)
    (h : Runs (hostRead (buf.toNat + (len :: pre).length))
      ((s.rxStopped (s.irq.rxDonePending && k)).onEnv fun v => { v with keep := ks })
      (.error e ((s.rxStopped (s.irq.rxDonePending && k)).onEnv fun v => { v with keep := ks }))) :
    Runs (radioTransmit buf) s
      (.error e ((s.rxStopped (s.irq.rxDonePending && k)).onEnv fun v => { v with keep := ks })) := by
  have hvalid : ¬lengthValid s.cfg len = false := by
    rw [lengthValid, decide_eq_false_iff_not]
    omega
  have hcount : len.toNat + 1 = (len :: pre).length + (len.toNat - pre.length - 1 + 1) := by
    rw [List.length_cons]
    omega
  have hstop := runs_hostReadBytes_stop (len.toNat - pre.length - 1) (bs := len :: pre) (by exact hh) h
  rw [← hcount] at hstop
  exact .gated hgate (fun _ => htest) <| .get_bind <| .line <| (runs_hostRead hh.head.1 hh.head.2).bind <| .line <|
    .ite_neg hvalid <| .line <| (runs_rxStopHw_keep hk).seq <| .line <| hstop.stop

theorem runs_radioTransmit {len : Byte} {payload : List Byte} (hh : s.HostHolds buf.toNat (len :: payload))
    (hlen : payload.length = len.toNat) (hmin : 1 ≤ len.toNat) (hmax : len.toNat ≤ s.cfg.maxPayload)
    (hn : s.ring.freeCount = some n) (hw : s.ring.writeIdx = some w) (hk : s.env.keep = k :: ks) :
    Runs (radioTransmit buf) s
      (pollsResult w n 2 0 (s.transmitting (s.irq.rxDonePending && k) (len :: payload) ks)) := by
  have hvalid : ¬lengthValid s.cfg len = false := by
    rw [lengthValid, decide_eq_false_iff_not]
    omega
  have hread := runs_hostReadBytes (s := (s.rxStopped (s.irq.rxDonePending && k)).onEnv fun v => { v with keep := ks }) hh
  rw [List.length_cons, hlen] at hread
  have hloop := runs_transmitLoop (s := s.transmitting (s.irq.rxDonePending && k) (len :: payload) ks) hn hw rfl 0
  refine .gated hgate (fun _ => htest) <| .get_bind <| .line <| (runs_hostRead hh.head.1 hh.head.2).bind <| .line <|
    .ite_neg hvalid <| .line <| (runs_rxStopHw_keep hk).seq <| .line <| hread.bind <| .update <| .line <| .update <|
    .line <| .update <| .update <| .line <| .update ?_
  simpa [State.transmitting, State.rxStopped, State.onEnv, State.onArb, State.emit] using hloop

end Transmit

/-! ### The polls' closed form over listed codes -/

theorem State.pollsFrom_succ (more polls : Nat) :
    State.pollsFrom w n (more + 1) polls s =
      if s.polled.arb.txDone = true then s.polled.transmitEnded w n
      else if timedOut s.polled.cfg (polls + 1) = true then s.polled.transmitGivenUp w n
      else State.pollsFrom w n more (polls + 1) s.polled.betweenPolls := rfl

theorem State.polled_of_adc (hm : s.arb.txMinBatt = some m) (hadc : s.env.adc = v :: vs) :
    s.polled = { s with
      env := { s.env with adc := vs },
      arb := { s.arb with txMinBatt := some (if v.toNat < m.toNat then v else m) },
      trace := s.trace ++ [.adc v] } := by
  simp [State.polled, State.nextCode, hm, hadc]

theorem State.pollsFrom_of_done (hm : s.arb.txMinBatt = some m) (hadc : s.env.adc = v :: vs)
    (hdone : s.arb.txDone = true) (more polls : Nat) :
    State.pollsFrom w n (more + 1) polls s = State.transmitEnded w n { s with
      env := { s.env with adc := vs },
      arb := { s.arb with txMinBatt := some (if v.toNat < m.toNat then v else m) },
      trace := s.trace ++ [.adc v] } := by
  rw [pollsFrom_succ, if_pos (by exact hdone), polled_of_adc hm hadc]

theorem timedOut_eq {p : Params} {last polls : Nat} (h : p.txTimeout = some last) (hle : last ≤ polls) :
    timedOut p polls = true := by
  rw [timedOut, h]
  exact decide_eq_true hle

theorem not_timedOut {p : Params} {polls : Nat} (h : ∀ last, p.txTimeout = some last → polls < last) :
    ¬timedOut p polls = true := by
  rw [timedOut]
  cases hlast : p.txTimeout with
  | none => exact Bool.false_ne_true
  | some last => exact fun hle => Nat.not_le.2 (h last hlast) (of_decide_eq_true hle)

theorem State.pollsFrom_of_timeout (hm : s.arb.txMinBatt = some m) (hadc : s.env.adc = v :: vs)
    (hdone : s.arb.txDone = false) {last polls : Nat} (hlast : s.cfg.txTimeout = some last) (hle : last ≤ polls + 1)
    (more : Nat) :
    State.pollsFrom w n (more + 1) polls s = State.transmitGivenUp w n { s with
      env := { s.env with adc := vs },
      arb := { s.arb with txMinBatt := some (if v.toNat < m.toNat then v else m) },
      trace := s.trace ++ [.adc v] } := by
  rw [pollsFrom_succ, if_neg (by exact Bool.not_eq_true _ |>.mpr hdone), if_pos (by exact timedOut_eq hlast hle),
    polled_of_adc hm hadc]

/-- A poll without TX done that the timeout does not end. -/
theorem State.pollsFrom_of_again (hm : s.arb.txMinBatt = some m) (hadc : s.env.adc = v :: vs)
    (hdone : s.arb.txDone = false) {polls : Nat} (htime : ¬timedOut s.cfg (polls + 1) = true) (more : Nat) :
    State.pollsFrom w n (more + 1) polls s = State.pollsFrom w n more (polls + 1) (State.betweenPolls { s with
      env := { s.env with adc := vs },
      arb := { s.arb with txMinBatt := some (if v.toNat < m.toNat then v else m) },
      trace := s.trace ++ [.adc v] }) := by
  rw [pollsFrom_succ, if_neg (by exact Bool.not_eq_true _ |>.mpr hdone), if_neg (by exact htime), polled_of_adc hm hadc]

theorem State.txFinished_of_tx (htx : s.arb.radioState = .tx) (hdone : s.arb.txDone = false) :
    s.txFinished = { s with arb := { s.arb with txDone := true }, trace := s.trace ++ [.txFrame s.arb.txFrame] } :=
  if_pos ⟨htx, hdone⟩

/-- A live transceiver finishes between two polls (R113, log entry 7). -/
theorem State.pollsFrom_of_live (hm : s.arb.txMinBatt = some m) (hadc : s.env.adc = v1 :: v2 :: vs)
    (htx : s.arb.radioState = .tx) (hdone : s.arb.txDone = false) (hlive : s.cfg.assumeXcvrLive = true) {polls : Nat}
    (htime : ¬timedOut s.cfg (polls + 1) = true) {first : U16} (hfirst : first = if v1.toNat < m.toNat then v1 else m) :
    State.pollsFrom w n 2 polls s = State.transmitEnded w n { s with
      env := { s.env with adc := vs },
      arb := { s.arb with txDone := true, txMinBatt := some (if v2.toNat < first.toNat then v2 else first) },
      trace := s.trace ++ [.adc v1, .txFrame s.arb.txFrame, .adc v2] } := by
  subst hfirst
  rw [pollsFrom_of_again hm hadc hdone htime, betweenPolls, if_pos (by exact hlive),
    txFinished_of_tx (by exact htx) (by exact hdone), pollsFrom_of_done rfl rfl rfl]
  simp

/-- Two polls of a transceiver that is not live, whose TX done is free, with no timeout. -/
theorem State.pollsFrom_of_free (hm : s.arb.txMinBatt = some m) (hadc : s.env.adc = v1 :: v2 :: vs)
    (htx : s.arb.radioState = .tx) (hdone : s.arb.txDone = false) (hlive : s.cfg.assumeXcvrLive = false)
    (hnever : s.cfg.txTimeout = none) (polls : Nat) {first low : U16}
    (hfirst : first = if v1.toNat < m.toNat then v1 else m)
    (hlow : low = if v2.toNat < first.toNat then v2 else first) :
    State.pollsFrom w n 2 polls s =
      if Config.txDoneNow s.env.draws = true then
        State.transmitEnded w n { s with
          env := { s.env with adc := vs, draws := s.env.draws + 1 },
          arb := { s.arb with txDone := true, txMinBatt := some low },
          trace := s.trace ++ [.adc v1, .txFrame s.arb.txFrame, .adc v2] }
      else
        { s with
          env := { s.env with adc := vs, draws := s.env.draws + 2 },
          arb := { s.arb with txDone := Config.txDoneNow (s.env.draws + 1), txMinBatt := some low },
          hostPos := .txPoll (polls + 2),
          trace := s.trace ++ [.adc v1, .adc v2] ++
            (if Config.txDoneNow (s.env.draws + 1) = true then [.txFrame s.arb.txFrame] else []) } := by
  subst hlow hfirst
  have htime (k : Nat) : ¬timedOut s.cfg k = true := not_timedOut fun _ h => absurd (hnever.symm.trans h) nofun
  have hfree : ¬s.cfg.assumeXcvrLive = true := by simp [hlive]
  rw [pollsFrom_of_again hm hadc hdone (htime _), betweenPolls, if_neg (by exact hfree)]
  by_cases hnow : Config.txDoneNow s.env.draws = true
  · rw [if_pos (by exact hnow), if_pos hnow, txFinished_of_tx (by exact htx) (by exact hdone),
      pollsFrom_of_done rfl rfl rfl]
    simp [drawn]
  · rw [if_neg (by exact hnow), if_neg hnow, pollsFrom_of_again rfl rfl (by exact hdone) (by exact htime _), betweenPolls,
      if_neg (by exact hfree)]
    by_cases hthen : Config.txDoneNow (s.env.draws + 1) = true
    · rw [if_pos (by exact hthen), txFinished_of_tx (by exact htx) (by exact hdone)]
      simp [pollsFrom, drawn, hthen]
    · rw [if_neg (by exact hthen)]
      simp [pollsFrom, drawn, hthen, hdone]

/-- The first code is the minimum. -/
theorem lower_than_start (v : U16) : v = if v.toNat < (0xFFFF#16).toNat then v else 0xFFFF#16 := by
  split
  · rfl
  · bv_omega

end Sys2Proof.Machine

namespace Sys2Proof

open Sys2Proof.Machine

/-- Settles O23: from the state in which the polls begin, the two polls of a live transceiver. -/
theorem transmitSendsTheFrame : Obligations.TransmitSendsTheFrame := by
  intro s buf len payload n w v1 v2 vs k ks hq hgate htest hh hlen hmin hmax hn hw hadc hk hlive hlast
  have htime : ¬timedOut s.cfg (0 + 1) = true := not_timedOut fun last h => hlast last h
  rw [Runs.exec (i := .radioTransmit buf) (runs_radioTransmit hgate htest buf hh hlen hmin hmax hn hw hk) hq]
  refine congrArg _ ((ended_pollsResult 2 0).trans ?_)
  refine (State.pollsFrom_of_live (s := s.transmitting _ (len :: payload) ks) rfl hadc rfl rfl hlive htime
    (lower_than_start v1)).trans ?_
  simp [State.transmitEnded, State.transmitting, State.rxStopped]

/-- Settles O24: a bad length and the faults end the command before its polls; every other end is the polls' closed form,
at the command and at a hold. -/
theorem transmitEndsWithoutSending : Obligations.TransmitEndsWithoutSending := by
  have started {s : State} {buf : U16} {len : Byte} {payload : List Byte} {n : Nat} {w : Fin 3} {k : Bool}
      {ks : List Bool} (hq : s.Quiet) (hgate : radioGate s.radio = .ok) (htest : s.radio.freqTest = false)
      (hh : s.HostHolds buf.toNat (len :: payload)) (hlen : payload.length = len.toNat) (hmin : 1 ≤ len.toNat)
      (hmax : len.toNat ≤ s.cfg.maxPayload) (hn : s.ring.freeCount = some n) (hw : s.ring.writeIdx = some w)
      (hk : s.env.keep = k :: ks) : exec (.radioTransmit buf) s =
        .next (State.pollsFrom w n 2 0 (s.transmitting (s.irq.rxDonePending && k) (len :: payload) ks)) :=
    (Runs.exec (i := .radioTransmit buf) (runs_radioTransmit hgate htest buf hh hlen hmin hmax hn hw hk) hq).trans
      (congrArg _ (ended_pollsResult 2 0))
  have held {s : State} {polls n : Nat} {w : Fin 3} {m : U16} (hs : s.HeldQuiet) (hpos : s.hostPos = .txPoll polls)
      (hn : s.ring.freeCount = some n) (hw : s.ring.writeIdx = some w) (hm : s.arb.txMinBatt = some m) :
      step s = .next (State.pollsFrom w n 2 polls s) := by
    have hhold : s.hostPos.IsHold := by rw [hpos]; exact ⟨nofun, nofun⟩
    have hrun := runs_transmitLoop hn hw hm polls
    rw [Runs.step_held hs hhold (r := pollsResult w n 2 polls s) (by rw [hpos]; exact hrun), hpos]
    exact congrArg _ (ended_pollsResult 2 polls)
  refine ⟨fun s buf hq hgate htest => ⟨fun len hh hlen => ?_, fun ha => ?_, fun ha hb => ?_,
    fun len pre k ks a stopped hh hmax hlen hk ha hstopped => ?_, ?_, ?_⟩, ?_, ?_, ?_, ?_⟩
  · exact Runs.exec (i := .radioTransmit buf) (runs_radioTransmit_of_badLength hgate htest buf hh hlen) hq
  · exact Runs.exec (i := .radioTransmit buf)
      (runs_radioTransmit_of_lengthFault hgate htest buf (runs_hostRead_of_range ha)) hq
  · exact Runs.exec (i := .radioTransmit buf)
      (runs_radioTransmit_of_lengthFault hgate htest buf (runs_hostRead_of_unwritten ha hb)) hq
  · subst hstopped
    have haddr : a = buf.toNat + (len :: pre).length := by rw [ha, List.length_cons]; omega
    subst haddr
    exact ⟨fun hout => Runs.exec (i := .radioTransmit buf)
        (runs_radioTransmit_of_frameFault hgate htest buf hh hmax hlen hk (runs_hostRead_of_range (by exact hout))) hq,
      fun hin hnone => Runs.exec (i := .radioTransmit buf)
        (runs_radioTransmit_of_frameFault hgate htest buf hh hmax hlen hk
          (runs_hostRead_of_unwritten (by exact hin) (by exact hnone))) hq⟩
  · intro len payload n w v vs k ks hh hlen hmin hmax hn hw hadc hk hlast
    rw [started hq hgate htest hh hlen hmin hmax hn hw hk]
    refine congrArg _ ((State.pollsFrom_of_timeout (s := s.transmitting _ (len :: payload) ks) rfl hadc rfl hlast
      (Nat.le_refl 1) 1).trans ?_)
    rw [← lower_than_start]
    simp [State.transmitGivenUp, State.transmitting, State.rxStopped]
  · intro len payload n w v1 v2 vs k ks hh hlen hmin hmax hn hw hadc hk hnever hlive
    rw [started hq hgate htest hh hlen hmin hmax hn hw hk]
    refine congrArg _ ((State.pollsFrom_of_free (s := s.transmitting _ (len :: payload) ks) rfl hadc rfl rfl hlive hnever
      0 (lower_than_start v1) rfl).trans ?_)
    by_cases hnow : Config.txDoneNow s.env.draws = true
    · rw [if_pos (by exact hnow), if_pos hnow]
      simp [State.transmitEnded, State.transmitting, State.rxStopped]
    · rw [if_neg (by exact hnow), if_neg hnow]
      simp [State.transmitting, State.rxStopped] <;> rfl
  · intro s buf len payload n w k ks hq hgate htest hh hlen hmin hmax hn hw hk
    exact started hq hgate htest hh hlen hmin hmax hn hw hk
  · intro s polls n w hs hpos hn hw hm
    obtain ⟨m, hm⟩ := Option.ne_none_iff_exists'.1 hm
    exact held hs hpos hn hw hm
  · intro s polls n w m v1 v2 vs hs hpos hn hw htx hdone hm hadc hnever hlive
    rw [held hs hpos hn hw hm]
    exact congrArg _ (State.pollsFrom_of_free hm hadc htx hdone hlive hnever polls rfl rfl)
  · intro s polls n w m v vs hs hpos hn hw hm hadc
    rw [held hs hpos hn hw hm]
    refine ⟨fun hdone => ?_, fun last hdone hlast hle => ?_⟩
    · exact congrArg _ ((State.pollsFrom_of_done hm hadc hdone 1 polls).trans (by simp [State.transmitEnded]))
    · exact congrArg _ ((State.pollsFrom_of_timeout hm hadc hdone hlast hle 1).trans (by simp [State.transmitGivenUp]))

end Sys2Proof

/-! PROOF. RADIO_RECEIVE that returns no frame, with no other agent scheduled (R22, R23, R74). -/

namespace Sys2Proof.Machine

variable {s : State} {r : Fin 3} {n o : Nat} {dst : U16} {b b1 b2 len : Byte} {bs rest : List Byte}

theorem forEach_append {α : Type} (body : α → M Unit) (as bs : List α) :
    forEach body (as ++ bs) = (forEach body as >>= fun _ => forEach body bs) := by
  induction as with
  | nil => rfl
  | cons a as ih => simp only [List.cons_append, forEach, ih, bind_assoc]

theorem runs_slotRead (h : s.SlotGives r o b s.env.race s.env.race) : Runs (slotRead r o) s (.ok b s) :=
  .of_run id fun _ p => slotRead_run_of_gives (s := s.withHostPos p) h

theorem runs_slotRead_of_unwritten (hfree : ¬s.ArmedInto r) (ho : o < slotSize s.cfg)
    (h : s.ring.cells.read (ringAddr r o) = none) :
    Runs (slotRead r o) s (.error (.fault (.unwritten (.ring r) o)) s) :=
  .of_run (fun _ => trivial) fun _ p => by
    rw [slotRead, run_bind_ok (run_get_ok _), if_neg (by exact Nat.not_le.2 ho), if_neg (by exact hfree), ringRead_run,
      if_neg (by exact Nat.not_le.2 ho), State.withHostPos_ring, h]
    rfl

/-- Line 9 copies the bytes that HOST has room for and stops at the first it has none for (R23). -/
theorem runs_receiveBytes_stop (hgives : s.SlotGivesAll r 0 bs s.env.race s.env.race)
    (hlast : s.SlotGives r bs.length b s.env.race s.env.race) (hfit : bs = [] ∨ dst.toNat + bs.length ≤ s.cfg.hostMemSize)
    (hout : s.cfg.hostMemSize ≤ dst.toNat + bs.length) (more : Nat) :
    Runs (forEach (receiveByte dst r) (List.range (bs.length + (more + 1)))) s
      (.error (.fault (.range .host (dst.toNat + bs.length))) (s.onHostMem fun m => m.writeBytes dst.toNat bs)) := by
  have hcopy : Runs (forEach (receiveByte dst r) (List.range' 0 bs.length)) s
      (.ok () (s.onHostMem fun m => m.writeBytes dst.toNat bs)) := by
    obtain rfl | hfit := hfit
    · exact .pure ()
    · refine fun hq => ⟨hq, fun p => ⟨_, receiveBytes_run_quiet (s := s.withHostPos p) hq dst (by exact hfit) ?_⟩⟩
      exact hgives.of_eq rfl rfl rfl
  have hstop (a : Nat) (ha : s.cfg.hostMemSize ≤ a) : Runs (hostWrite a b)
      (s.onHostMem fun m => m.writeBytes dst.toNat bs)
      (.error (.fault (.range .host a)) (s.onHostMem fun m => m.writeBytes dst.toNat bs)) :=
    .ite_pos ha (.raise _)
  rw [List.range_eq_range', ← List.range'_append_1, forEach_append, Nat.zero_add, List.range'_succ]
  refine hcopy.seq <| .stop <| .line <| (runs_slotRead ?_).bind <| hstop _ hout
  exact hlast

theorem runs_radioReceive_of_empty (hgate : radioGate s.radio = .ok) (htest : s.radio.freqTest = false)
    (hn : s.ring.freeCount = some 3) : Runs (radioReceive dst) s (.ok .noPackets s) :=
  .gated hgate (fun _ => htest) <| .line <| .get_bind <| .readReg hn <| .ite_pos rfl <| .pure _

section Pending

variable (hgate : radioGate s.radio = .ok) (htest : s.radio.freqTest = false)
  (hn : s.ring.freeCount = some n) (hlt : n < 3) (hr : s.ring.readIdx = some r)
include hgate htest hn hlt hr

theorem runs_radioReceive_of_lengthFault {e : Stop} (h : Runs (slotRead r 0) s (.error e s)) :
    Runs (radioReceive dst) s (.error e s) :=
  .gated hgate (fun _ => htest) <| .line <| .get_bind <| .readReg hn <| .ite_neg (Nat.ne_of_lt hlt) <|
    .line <| .get_bind <| .readReg hr <| .line h.stop

theorem runs_radioReceive_of_stale (h : Runs (slotRead r 0) s (.ok len s)) (hmax : s.cfg.maxPayload < len.toNat) :
    Runs (radioReceive dst) s (.error (.fault (.staleLength r len)) s) :=
  .gated hgate (fun _ => htest) <| .line <| .get_bind <| .readReg hn <| .ite_neg (Nat.ne_of_lt hlt) <|
    .line <| .get_bind <| .readReg hr <| .line <| h.bind <| .line <| .ite_pos hmax <| .raise _

/-- The copy of a stored frame that HOST has room for the first bytes of only. -/
theorem runs_radioReceive_of_range {payload : List Byte} (hfree : ¬s.ArmedInto r)
    (hslot : s.SlotHolds r (len :: payload ++ [b1, b2])) (hlen : payload.length = len.toNat)
    (hmax : len.toNat ≤ s.cfg.maxPayload) (hout : s.cfg.hostMemSize ≤ dst.toNat + len.toNat) {fits : Nat}
    (hfits : fits = s.cfg.hostMemSize - dst.toNat) :
    Runs (radioReceive dst) s (.error (.fault (.range .host (max dst.toNat s.cfg.hostMemSize)))
      { s with
        hostMem := s.hostMem.writeBytes dst.toNat ((len :: payload).take fits)
        res := { s.res with lqi := some (lqi b2), rssi := some (rssi s.cfg b1) } }) := by
  have hreads {i : Nat} {b : Byte} (hb : (len :: payload ++ [b1, b2])[i]? = some b) :
      Runs (slotRead r i) s (.ok b s) := runs_slotRead (hslot.gives hfree hb _)
  have hle : fits ≤ len.toNat := by omega
  have hcount : ((len :: payload).take fits).length = fits := by
    rw [List.length_take, List.length_cons]
    omega
  obtain ⟨b, hb⟩ : ∃ b, (len :: payload ++ [b1, b2])[fits]? = some b :=
    ⟨_, List.getElem?_eq_getElem (by simp only [List.length_append, List.length_cons]; omega)⟩
  have hcopy (u : State) (hcfg : u.cfg = s.cfg) (hring : u.ring = s.ring) (harb : u.arb = s.arb) :
      Runs (forEach (receiveByte dst r) (List.range (len.toNat + 1))) u
        (.error (.fault (.range .host (dst.toNat + fits)))
          (u.onHostMem fun m => m.writeBytes dst.toNat ((len :: payload).take fits))) := by
    have hu : ¬u.ArmedInto r := by rwa [State.ArmedInto, hring, harb]
    have hslot' : u.SlotHolds r (len :: payload ++ [b1, b2]) := by rwa [State.SlotHolds, hcfg, hring]
    have hstop := runs_receiveBytes_stop (dst := dst) (bs := (len :: payload).take fits)
      (hslot'.givesAll hu ((List.take_prefix _ _).trans (List.prefix_append _ _)) _)
      (by rw [hcount]; exact hslot'.gives hu hb _)
      (by rw [hcount, hcfg]; rcases Nat.eq_zero_or_pos fits with rfl | h; exacts [.inl rfl, .inr (by omega)])
      (by rw [hcount, hcfg]; omega) (len.toNat - fits)
    rwa [hcount, show fits + (len.toNat - fits + 1) = len.toNat + 1 by omega] at hstop
  rw [show max dst.toNat s.cfg.hostMemSize = dst.toNat + fits by omega]
  have hquality : (len :: payload ++ [b1, b2])[len.toNat + 2]? = some b2 := by simp [← hlen]
  have hstrength : (len :: payload ++ [b1, b2])[len.toNat + 1]? = some b1 := by simp [← hlen]
  have hread1 : Runs (slotRead r (len.toNat + 1)) (s.onRes fun v => { v with lqi := some (lqi b2) })
      (.ok b1 (s.onRes fun v => { v with lqi := some (lqi b2) })) :=
    runs_slotRead (by exact hslot.gives hfree hstrength _)
  exact .gated hgate (fun _ => htest) <| .line <| .get_bind <| .readReg hn <| .ite_neg (Nat.ne_of_lt hlt) <|
    .line <| .get_bind <| .readReg hr <| .line <| (hreads rfl).bind <| .line <| .ite_neg (Nat.not_lt.2 hmax) <|
    .line <| (hreads hquality).bind <| .update <| .line <| hread1.bind <| .update <|
    .stop (hcopy _ (by exact rfl) (by exact rfl) (by exact rfl))

end Pending

/-- The readings after a copy that ends where HOST does. -/
theorem Memory.read_writeBytes_cut (m : Memory) {k size fits : Nat} (hfits : fits = size - k) (hlong : fits ≤ bs.length)
    (a : Nat) : (m.writeBytes k (bs.take fits)).read a = if k ≤ a ∧ a < size then bs[a - k]? else m.read a := by
  rw [Memory.read_writeBytes, List.length_take, Nat.min_eq_left hlong]
  by_cases h : k ≤ a ∧ a < size
  · rw [if_pos h, if_pos (by omega), List.getElem?_take_of_lt (by omega)]
  · rw [if_neg h, if_neg (by omega)]

end Sys2Proof.Machine

namespace Sys2Proof

open Sys2Proof.Machine

/-- Settles O27: the empty ring, the two faults of the length byte, and the copy that stops at HOST's end. -/
theorem receiveWithoutAFrame : Obligations.ReceiveWithoutAFrame := by
  intro s dst hq hgate htest
  refine ⟨fun hn => Runs.exec (i := .radioReceive dst) (runs_radioReceive_of_empty hgate htest hn) hq,
    fun r n hn hlt hr hfree => ⟨fun len hlen hmax => ?_, fun hnone => ?_,
      fun len b1 b2 payload hslot hlen hmax hout => ?_⟩⟩
  · have hread : s.SlotGives r 0 len s.env.race s.env.race := ⟨Nat.succ_pos _, .inr ⟨hfree, hlen, rfl⟩⟩
    exact Runs.exec (i := .radioReceive dst)
      (runs_radioReceive_of_stale hgate htest hn hlt hr (runs_slotRead hread) hmax) hq
  · exact Runs.exec (i := .radioReceive dst) (runs_radioReceive_of_lengthFault hgate htest hn hlt hr
      (runs_slotRead_of_unwritten hfree (Nat.succ_pos _) hnone)) hq
  · exact ⟨_, Runs.exec (i := .radioReceive dst)
        (runs_radioReceive_of_range hgate htest hn hlt hr hfree hslot hlen hmax hout rfl) hq,
      Memory.read_writeBytes_cut _ rfl (by rw [List.length_cons]; omega)⟩

end Sys2Proof

/-! PROOF. The display engine's pieces with no other agent scheduled (R79 to R84, R86, R88): what the closed forms leave
alone, the pieces' runs, and the commands without a busy wait. -/

namespace Sys2Proof.Machine

variable {α : Type} {s t u : State}

/-! ### What the closed forms leave alone -/

/-- Between the two states only the display engine and the trace differ. -/
def PanelOnly (s t : State) : Prop := t = { s with epd := t.epd, trace := t.trace }

namespace PanelOnly

theorem refl (s : State) : PanelOnly s s := rfl

theorem trans (h : PanelOnly s t) (h' : PanelOnly t u) : PanelOnly s u := by
  unfold PanelOnly at *
  rw [h', h]

theorem foldl {g : State → α → State} (h : ∀ u a, PanelOnly u (g u a)) (as : List α) (s : State) :
    PanelOnly s (as.foldl g s) := by
  induction as generalizing s with
  | nil => exact refl s
  | cons a as ih => exact (h s a).trans (ih _)

theorem cfg (h : PanelOnly s t) : t.cfg = s.cfg := by unfold PanelOnly at h; rw [h]
theorem env (h : PanelOnly s t) : t.env = s.env := by unfold PanelOnly at h; rw [h]
theorem draw (h : PanelOnly s t) : t.draw = s.draw := by unfold PanelOnly at h; rw [h]

theorem drained (s : State) : PanelOnly s s.drained := by
  rw [State.drained]
  split <;> rfl

theorem byteHanded (s : State) (c : CtrlSet) (k : ByteKind) (b : Byte) : PanelOnly s (s.byteHanded c k b) :=
  (drained s).trans rfl

theorem selected (s : State) (level : Bool) : PanelOnly s (s.selected level) := rfl

theorem entrySent (s : State) (cmd : Byte) (data : List Byte) : PanelOnly s (s.entrySent cmd data) :=
  (drained s).trans <| (selected _ _).trans <| (byteHanded _ _ _ _).trans <|
    (foldl (fun u b => byteHanded u _ _ b) data _).trans <| (drained _).trans <| selected _ _

theorem tableSent (s : State) (es : List (Byte × List Byte)) : PanelOnly s (s.tableSent es) :=
  foldl (fun u (e : Byte × List Byte) => entrySent u e.1 e.2) es s

theorem railUp (s : State) : PanelOnly s s.railUp := rfl

theorem powerOnSent (s : State) : PanelOnly s s.powerOnSent := (tableSent s _).trans (entrySent _ _ _)

theorem setupSent (s : State) : PanelOnly s s.setupSent := ((tableSent s _).trans (entrySent _ _ _)).trans rfl

theorem programmed (s : State) : PanelOnly s s.programmed := (powerOnSent s).trans (setupSent _)

theorem programmedFrom (w : BusyWait) (s : State) : PanelOnly s (s.programmedFrom w) := by
  cases w with
  | line8 => exact programmed s
  | line11 => exact setupSent s
  | line12 => exact setupSent s

theorem poweredUp (s : State) : PanelOnly s s.poweredUp := by
  rw [State.poweredUp]
  split
  · exact refl s
  · exact (railUp s).trans (programmed _)

theorem startSent (s : State) (a : Bool) : PanelOnly s (s.startSent a) := (entrySent s _ _).trans rfl

theorem transferStarted (s : State) (a : Bool) : PanelOnly s (s.transferStarted a) := (poweredUp s).trans (startSent _ a)

theorem byteStreamed (s : State) (b : Byte) : PanelOnly s (s.byteStreamed b) := (byteHanded s _ _ _).trans rfl

theorem shutDown (s : State) : PanelOnly s s.shutDown := by
  rw [State.shutDown]
  split
  · exact refl s
  · exact ((tableSent s _).trans (drained _)).trans rfl

theorem refreshEnded (s : State) (low : U16) : PanelOnly s (State.refreshEnded low s) :=
  PanelOnly.trans (t := { s with
    epd := { s.epd with postRefreshBatt := some (adcScale s.cfg low) }
    trace := s.trace ++ [.baselineRepower] }) rfl (shutDown _)

end PanelOnly

/-! ### A bus that is ready -/

/-- The bus is connected, its byte is known, the tables are in their form, and no agent is scheduled. -/
structure State.BusReady (s : State) : Prop where
  quiet : s.Quiet
  connected : s.epd.spiConnected = true
  ready : s.ShifterReady
  tables : TablesOk s.cfg

namespace State.BusReady

theorem of_eq (h : s.BusReady) (hepd : t.epd = s.epd) (hcfg : t.cfg = s.cfg) (hsched : t.env.sched = s.env.sched) :
    t.BusReady where
  quiet := hsched.trans h.quiet
  connected := by rw [hepd]; exact h.connected
  ready := by rw [State.ShifterReady, hepd]; exact h.ready
  tables := by rw [hcfg]; exact h.tables

theorem byteHanded (h : s.BusReady) (c : CtrlSet) (k : ByteKind) (b : Byte) : (s.byteHanded c k b).BusReady where
  quiet := (congrArg Env.sched (State.byteHanded_env c k b)).trans h.quiet
  connected := (State.byteHanded_spiConnected c k b).trans h.connected
  ready := State.byteHanded_ready h.connected c k b
  tables := by rw [State.byteHanded_cfg]; exact h.tables

theorem entrySent (h : s.BusReady) (cmd : Byte) (data : List Byte) : (s.entrySent cmd data).BusReady := by
  obtain ⟨hready, hconnected, henv, hcfg, -, -⟩ := State.entrySent_frame h.quiet h.connected cmd data
  exact ⟨(congrArg Env.sched henv).trans h.quiet, hconnected, hready, by rw [hcfg]; exact h.tables⟩

theorem tableSent (h : s.BusReady) (es : List (Byte × List Byte)) : (s.tableSent es).BusReady := by
  obtain ⟨-, hready, hconnected, henv, hcfg, -, -⟩ := entries_run_quiet es h.quiet h.connected h.ready
  exact ⟨(congrArg Env.sched henv).trans h.quiet, hconnected, hready, by rw [hcfg]; exact h.tables⟩

theorem railUp (hq : s.Quiet) (hr : s.ShifterReady) (ht : TablesOk s.cfg) : s.railUp.BusReady :=
  ⟨hq, rfl, State.railUp_ready hr, ht⟩

theorem powerOnSent (h : s.BusReady) : s.powerOnSent.BusReady := (h.tableSent _).entrySent _ _

theorem setupSent (h : s.BusReady) : s.setupSent.BusReady := by
  obtain ⟨hq, hconnected, hready, htables⟩ := (h.tableSent (panelTable s.cfg s.cfg.tableSetup)).entrySent s.cfg.cmdVcom
    [s.cfg.vcomCal]
  exact ⟨hq, hconnected, hready, htables⟩

theorem programmedFrom (h : s.BusReady) (w : BusyWait) : (s.programmedFrom w).BusReady := by
  cases w with
  | line8 => exact h.powerOnSent.setupSent
  | line11 => exact h.setupSent
  | line12 => exact h.setupSent

theorem startSent (h : s.BusReady) (a : Bool) : (s.startSent a).BusReady := by
  obtain ⟨hq, hconnected, hready, htables⟩ := h.entrySent (if a = true then s.cfg.cmdDtm2 else s.cfg.cmdDtm1) []
  exact ⟨hq, hconnected, hready, htables⟩

theorem byteStreamed (h : s.BusReady) (b : Byte) : (s.byteStreamed b).BusReady := by
  obtain ⟨hq, hconnected, hready, htables⟩ := h.byteHanded (streamRoute s.cfg s.epd.streamIdx) .data b
  exact ⟨hq, hconnected, hready, htables⟩

end State.BusReady

/-! ### The pieces' runs -/

theorem runs_sleep (ms : Nat) : Runs (sleep ms) s (.ok () (s.emit (.sleep ms))) :=
  .of_run id fun hq p => sleep_run_quiet (s := s.withHostPos p) ms hq

theorem runs_spiDrain (hr : s.ShifterReady) : Runs spiDrain s (.ok () s.drained) :=
  .of_run (fun hq => (congrArg Env.sched State.drained_env).trans hq) fun hq p => by
    rw [spiDrain_run_quiet (by exact hq) (by exact hr), State.withHostPos_drained]
    rfl

theorem runs_panelSend (hr : s.ShifterReady) (c : CtrlSet) (k : ByteKind) (b : Byte) :
    Runs (panelSend c k b) s (.ok () (s.byteHanded c k b)) :=
  .of_run (fun hq => (congrArg Env.sched (State.byteHanded_env c k b)).trans hq) fun hq p => by
    rw [panelSend_run_quiet (by exact hq) (by exact hr), State.withHostPos_byteHanded]
    rfl

theorem runs_pinCsAll (level : Bool) : Runs (pinCsAll level) s (.ok () (s.selected level)) :=
  .of_run id fun hq p => pinCsAll_run_quiet (s := s.withHostPos p) hq level

theorem runs_spiMux (on : Bool) :
    Runs (spiMux on) s
      (.ok () ((s.onEpd fun d => { d with spiConnected := on, pinLinesLow := !on }).emit (.spiMux on))) :=
  .update .write

theorem runs_pinRst (level : Bool) :
    Runs (pinRst level) s (.ok () ((s.onEpd fun d => { d with pinRst := level }).emit (.pin .rst level))) :=
  .update .write

theorem runs_pinPwr (level : Bool) :
    Runs (pinPwr level) s (.ok () ((s.onEpd fun d => { d with pinPwr := level }).emit (.pin .pwr level))) :=
  .update .write

theorem runs_sendEntry (h : s.BusReady) (cmd : Byte) (data : List Byte) :
    Runs (sendEntry cmd data) s (.ok () (s.entrySent cmd data)) :=
  .of_run (fun _ => (h.entrySent cmd data).quiet) fun hq p => by
    rw [sendEntry_run_quiet (by exact hq) (by exact h.connected) (by exact h.ready), State.withHostPos_entrySent]
    rfl

theorem runs_sendTable (h : s.BusReady) {tbl : List Byte}
    (ht : (panelEntries s.cfg.epdCountMode tbl).isSome = true) :
    Runs (sendTable tbl) s (.ok () (s.tableSent (panelTable s.cfg tbl))) :=
  .of_run (fun _ => (h.tableSent _).quiet) fun hq p => by
    rw [sendTable_run_quiet (by exact hq) (by exact h.connected) (by exact h.ready) (by exact ht),
      State.withHostPos_tableSent]
    rfl

/-! ### The commands without a busy wait -/

theorem runs_epdSendTable (h : s.BusReady) (hp : s.epd.epdPowered = true) {id : Byte} {tbl : List Byte}
    (hid : tableOfId s.cfg id = some tbl) (ht : (panelEntries s.cfg.epdCountMode tbl).isSome = true) :
    Runs (epdSendTable id) s (.ok .ok (s.tableSent (panelTable s.cfg tbl))) := by
  refine .line <| .get_bind ?_
  rw [hid]
  exact .ite_neg (by simp [hp]) <| .line <| (runs_sendTable h ht).seq <| .line <| .pure _

theorem runs_epdSendTable_of_unpowered (hp : s.epd.epdPowered = false) {id : Byte} {tbl : List Byte}
    (hid : tableOfId s.cfg id = some tbl) : Runs (epdSendTable id) s (.error (.refuse .epdNotPowered) s) := by
  refine .line <| .get_bind ?_
  rw [hid]
  exact .ite_pos hp <| .refuse _

theorem runs_epdSendByte (hr : s.ShifterReady) (hp : s.epd.epdPowered = true) (b : Byte) :
    Runs (epdSendByte b) s (.ok .ok (s.byteStreamed b)) := by
  refine .of_eq (.line <| .get_bind <| .ite_neg (by simp [hp]) <| .line <| .line <| (runs_panelSend hr _ _ _).seq <|
    .line <| .update <| .line <| .pure _) ?_
  simp [State.byteStreamed, State.byteHanded, State.onEpd]

theorem runs_epdSendByte_of_unpowered (hp : s.epd.epdPowered = false) (b : Byte) :
    Runs (epdSendByte b) s (.error (.refuse .epdNotPowered) s) :=
  .line <| .get_bind <| .ite_pos hp <| .refuse _

theorem runs_refreshAndSleep_of_unpowered (hp : s.epd.epdPowered = false) (caller : RefreshCaller) :
    Runs (refreshAndSleep caller) s (.error (.refuse .epdNotPowered) s) :=
  .line <| .get_bind <| .ite_pos hp <| .refuse _

/-! ### Shutdown -/

theorem State.shutDown_of_unpowered (hp : s.epd.epdPowered = false) : s.shutDown = s := if_pos hp

theorem runs_shutdown {point : Nat → M Unit} (hpoint : ∀ n u, Runs (point n) u (.ok () u))
    (h : s.epd.epdPowered = true → s.BusReady) : Runs (shutdown point) s (.ok () s.shutDown) := by
  refine (hpoint _ _).seq <| .get_bind ?_
  by_cases hp : s.epd.epdPowered = false
  · rw [State.shutDown_of_unpowered hp]
    exact .ite_pos hp <| .pure ()
  · have h := h (by simpa using hp)
    have hsent := h.tableSent (panelTable s.cfg s.cfg.tablePowerdown)
    refine .of_eq (.ite_neg hp <| (hpoint _ _).seq <| (runs_sendTable h h.tables.2.2.1).seq <| (hpoint _ _).seq <|
      (runs_spiDrain hsent.ready).seq <| (hpoint _ _).seq <| (runs_spiMux _).seq <| (hpoint _ _).seq <|
      (runs_pinCsAll _).seq <| (hpoint _ _).seq <| (runs_pinRst _).seq <| (hpoint _ _).seq <| (runs_pinPwr _).seq <|
      (hpoint _ _).seq <| .update <| (hpoint _ _).seq <| .update <| hpoint _ _) ?_
    rw [State.shutDown, if_neg hp]
    simp [State.onEpd, State.emit, State.selected]

theorem State.drained_idle (hr : s.ShifterReady) : s.drained.epd.spiBusy = false := by
  rw [State.drained]
  split
  · rfl
  · next hno =>
    by_contra hb
    rw [Bool.not_eq_false] at hb
    obtain ⟨⟨c, k, b⟩, hold⟩ := Option.ne_none_iff_exists'.1 (hr hb).2
    exact hno c k b hb hold

theorem State.drained_of_idle (h : s.epd.spiBusy = false) : s.drained = s := by
  rw [State.drained]
  split
  · next hb _ => simp [h] at hb
  · rfl

/-! ### The bytes of an entry on the bus -/

theorem State.byteHanded_drained_trace (c : CtrlSet) (k : ByteKind) (b : Byte) :
    (s.byteHanded c k b).drained.trace = s.drained.trace ++ [.panelByte c k b] := by
  simp [State.byteHanded, State.drained]

theorem State.bytesHanded_drained_trace (c : CtrlSet) (k : ByteKind) (bs : List Byte) :
    (bs.foldl (fun u b => u.byteHanded c k b) s).drained.trace = s.drained.trace ++ bs.map (.panelByte c k) := by
  induction bs generalizing s with
  | nil => simp
  | cons b bs ih => simp [ih, State.byteHanded_drained_trace]

theorem State.selected_trace (level : Bool) :
    (s.selected level).trace = s.trace ++ (controllers s.cfg).map fun c => .pin (.cs c) level := rfl

/-- From an idle shifter, the events of an entry in order (R82). -/
theorem State.entrySent_trace (h : s.epd.spiBusy = false) (cmd : Byte) (data : List Byte) :
    (s.entrySent cmd data).trace = s.trace ++ (controllers s.cfg).map (fun c => .pin (.cs c) s.cfg.csActive) ++
      [.panelByte (allSet s.cfg) .cmd cmd] ++ data.map (fun b => .panelByte (allSet s.cfg) .data b) ++
      (controllers s.cfg).map (fun c => .pin (.cs c) (!s.cfg.csActive)) := by
  have hup : (s.selected s.cfg.csActive).drained = s.selected s.cfg.csActive := State.drained_of_idle h
  have hcfg : ((data.foldl (fun u b => u.byteHanded (allSet s.cfg) .data b)
      ((s.selected s.cfg.csActive).byteHanded (allSet s.cfg) .cmd cmd)).drained).cfg = s.cfg :=
    ((PanelOnly.selected s _).trans <| (PanelOnly.byteHanded _ _ _ _).trans <|
      (PanelOnly.foldl (fun u b => PanelOnly.byteHanded u _ _ b) data _).trans (PanelOnly.drained _)).cfg
  rw [State.entrySent, State.drained_of_idle h, State.selected_trace, hcfg, State.bytesHanded_drained_trace,
    State.byteHanded_drained_trace, hup]
  rfl

end Sys2Proof.Machine

namespace Sys2Proof

open Sys2Proof.Machine

/-- Settles O33: the entry's closed form, and its events from an idle shifter. -/
theorem entrySelectsSendsDeselects : Obligations.EntrySelectsSendsDeselects := by
  intro s cmd data hq hc hidle
  have hready : s.ShifterReady := fun hb => absurd hb (by simp [hidle])
  have honly := PanelOnly.entrySent s cmd data
  refine ⟨_, sendEntry_run_quiet hq hc hready cmd data, ?_, State.entrySent_trace hidle cmd data, rfl, ?_⟩
  · have hsent := (panelSends_run_quiet (s := (s.drained.selected s.cfg.csActive).byteHanded (allSet s.cfg) .cmd cmd)
      ((congrArg Env.sched (State.byteHanded_env _ _ _)).trans (by rw [State.selected_env, State.drained_env]; exact hq))
      (by simpa using hc) (State.byteHanded_ready (by simpa using hc) _ _ _) (allSet s.cfg) .data
      data).2.1
    exact State.drained_idle hsent
  · unfold PanelOnly at honly
    rw [honly]
    exact ⟨rfl, rfl, rfl, rfl, rfl, rfl⟩

/-- Settles O32: the table of the id, and its entries' closed form. -/
theorem sendTableReplaysTheNamedTable : Obligations.SendTableReplaysTheNamedTable := by
  intro s id t hq hp hc hr hcfg hid
  obtain ⟨hpowerup, hsetup, hpowerdown, hrefresh⟩ := tablesOk_of_paramsOk hcfg
  have hready : s.BusReady := ⟨hq, hc, hr, tablesOk_of_paramsOk hcfg⟩
  obtain ⟨htable, hterminated⟩ : tableOfId s.cfg id = some t ∧ (panelEntries s.cfg.epdCountMode t).isSome = true := by
    rcases hid with ⟨rfl, rfl⟩ | ⟨rfl, rfl⟩ | ⟨rfl, rfl⟩ | ⟨rfl, rfl⟩
    exacts [⟨rfl, hpowerup⟩, ⟨rfl, hsetup⟩, ⟨rfl, hpowerdown⟩, ⟨rfl, hrefresh⟩]
  exact Runs.exec (i := .epdSendTable id) (runs_epdSendTable hready hp htable hterminated) hq

/-- Settles O34: the panel is looked at before anything is sent. -/
theorem unpoweredTransfersAreRefused : Obligations.UnpoweredTransfersAreRefused := by
  rintro s i hq hp (⟨id, hid, rfl⟩ | ⟨b, rfl⟩ | rfl)
  · have htable : tableOfId s.cfg id = some _ := List.getElem?_eq_getElem (Nat.lt_succ_of_le hid)
    exact Runs.exec (i := .epdSendTable id) (runs_epdSendTable_of_unpowered hp htable) hq
  · exact Runs.exec (i := .epdSendByte b) (runs_epdSendByte_of_unpowered hp b) hq
  · exact Runs.exec (i := .epdRefreshAndSleep) (runs_refreshAndSleep_of_unpowered hp .command) hq

/-- Settles O36: the shutdown's closed form, and its levels. -/
theorem shutdownPowersThePanelDown : Obligations.ShutdownPowersThePanelDown := by
  intro s hq
  have hrun (h : s.epd.epdPowered = true → s.BusReady) : Runs epdShutdown s (.ok .ok s.shutDown) :=
    (runs_shutdown (fun n _ => .atLine _ n) h).seq <| .pure _
  refine ⟨fun hp => ?_, fun hp hc hr hcfg => ?_⟩
  · rw [Runs.exec (i := .epdShutdown) (hrun fun h => by simp [h] at hp) hq, State.shutDown_of_unpowered hp]
    rfl
  · have hready : s.BusReady := ⟨hq, hc, hr, tablesOk_of_paramsOk hcfg⟩
    refine ⟨Runs.exec (i := .epdShutdown) (hrun fun _ => hready) hq, ?_⟩
    rw [State.shutDown, if_neg (by simp [hp])]
    exact ⟨State.drained_idle (hready.tableSent _).ready, rfl, rfl, rfl, rfl, rfl, rfl, rfl⟩

/-- Settles O38: the byte's closed form, and the route with one controller. -/
theorem sendByteHandsOverOneByte : Obligations.SendByteHandsOverOneByte := by
  intro s b hq hp _ hr
  refine ⟨(Runs.exec (i := .epdSendByte b) (runs_epdSendByte hr hp b) hq).trans ?_, fun hone => ?_⟩
  · simp only [ended, Instr.opcode, State.byteStreamed, State.byteHanded]
    rw [State.drained]
    split <;> rfl
  · simp [streamRoute, hone]

end Sys2Proof

/-! PROOF. The commands with busy waits, with no other agent scheduled (R85, R87, R89, R113, R114): a wait ends at its
level or the host stays there, and power-up and the refresh loop are put together from their waits. -/

namespace Sys2Proof.Machine

variable {α : Type} {s t u : State}

/-! ### The closed forms do not look at the environment -/

section Commute

variable (f : Env → Env)

theorem State.onEnv_drained : (s.onEnv f).drained = s.drained.onEnv f := by
  simp only [State.drained, State.onEnv_epd]
  split <;> rfl

theorem State.onEnv_byteHanded (c : CtrlSet) (k : ByteKind) (b : Byte) :
    (s.onEnv f).byteHanded c k b = (s.byteHanded c k b).onEnv f := by
  simp only [State.byteHanded, State.onEnv_drained]
  rfl

theorem State.onEnv_bytesHanded (c : CtrlSet) (k : ByteKind) (bs : List Byte) :
    bs.foldl (fun u b => u.byteHanded c k b) (s.onEnv f) = (bs.foldl (fun u b => u.byteHanded c k b) s).onEnv f := by
  induction bs generalizing s with
  | nil => rfl
  | cons b bs ih => simp only [List.foldl_cons, State.onEnv_byteHanded, ih]

theorem State.onEnv_entrySent (cmd : Byte) (data : List Byte) :
    (s.onEnv f).entrySent cmd data = (s.entrySent cmd data).onEnv f := by
  have hselected (u : State) (level : Bool) : (u.onEnv f).selected level = (u.selected level).onEnv f := rfl
  simp only [State.entrySent, State.onEnv_cfg, State.onEnv_drained, State.onEnv_byteHanded, hselected,
    State.onEnv_bytesHanded]

theorem State.onEnv_tableSent (es : List (Byte × List Byte)) :
    (s.onEnv f).tableSent es = (s.tableSent es).onEnv f := by
  simp only [State.tableSent]
  induction es generalizing s with
  | nil => rfl
  | cons e es ih => simp only [List.foldl_cons, State.onEnv_entrySent, ih]

theorem State.onEnv_powerOnSent : (s.onEnv f).powerOnSent = s.powerOnSent.onEnv f := by
  simp only [State.powerOnSent, State.onEnv_tableSent, State.onEnv_entrySent, State.onEnv_cfg]

theorem State.onEnv_setupSent : (s.onEnv f).setupSent = s.setupSent.onEnv f := by
  simp only [State.setupSent, State.onEnv_tableSent, State.onEnv_entrySent, State.onEnv_cfg]
  rfl

end Commute

/-! ### A busy wait -/

/-- The given readings that are left. -/
def State.busyLeft (bs : List Bool) (s : State) : State := s.onEnv fun v => { v with busy := bs }

theorem State.busyLeft_self {bs : List Bool} (h : s.env.busy = bs) : s.busyLeft bs = s := by
  subst h
  rfl

theorem State.busyLeft_powerOnSent (bs : List Bool) : (s.busyLeft bs).powerOnSent = s.powerOnSent.busyLeft bs :=
  State.onEnv_powerOnSent _

theorem State.busyLeft_setupSent (bs : List Bool) : (s.busyLeft bs).setupSent = s.setupSent.busyLeft bs :=
  State.onEnv_setupSent _

theorem State.BusReady.busyLeft (h : s.BusReady) (bs : List Bool) : (s.busyLeft bs).BusReady := h.of_eq rfl rfl rfl

theorem State.BusReady.drawn (h : s.BusReady) (n : Nat) : (s.drawn n).BusReady := h.of_eq rfl rfl rfl

theorem runs_busyRead_given {awaited b : Bool} {bs : List Bool} (h : s.env.busy = b :: bs) :
    Runs (busyRead awaited) s (.ok b (s.busyLeft bs)) :=
  .of_run id fun _ p => by rw [busyRead_run, State.withHostPos_env, h]; rfl

theorem runs_busyRead_live {awaited : Bool} (h : s.env.busy = []) (hlive : s.cfg.assumePanelLive = true) :
    Runs (busyRead awaited) s (.ok awaited s) :=
  .of_run id fun _ p => by rw [busyRead_run, State.withHostPos_env, h, State.withHostPos_cfg]; simp [hlive, placed]

theorem runs_busyRead_free {awaited : Bool} (h : s.env.busy = []) (hlive : s.cfg.assumePanelLive = false) :
    Runs (busyRead awaited) s (.ok s.freeLevel (s.drawn 1)) :=
  .of_run id fun _ p => by
    rw [busyRead_run, State.withHostPos_env, h, State.withHostPos_cfg]
    simp only [hlive, Bool.false_eq_true, if_false]
    rfl

/-- Readings of the other level are passed over. -/
theorem runs_awaitBusyUpTo_skip {level : Bool} {pos : HostPos} {r : EStateM.Result Stop State Unit} {rest : List Bool}
    (k fuel : Nat) (h : s.env.busy = List.replicate k (!level) ++ rest)
    (hk : Runs (awaitBusyUpTo level pos fuel) (s.busyLeft rest) r) :
    Runs (awaitBusyUpTo level pos (k + fuel)) s r := by
  induction k generalizing s with
  | zero =>
    rw [State.busyLeft_self (bs := rest) (by exact h)] at hk
    rwa [Nat.zero_add]
  | succ k ih =>
    rw [Nat.add_right_comm]
    refine .point <| (runs_busyRead_given (by exact h)).bind <| .ite_neg (by simp) <| ih rfl hk

/-- A wait whose level is among the given readings. -/
theorem runs_awaitBusy_given {level : Bool} {pos : HostPos} {rest : List Bool} (k : Nat)
    (h : s.env.busy = List.replicate k (!level) ++ level :: rest) :
    Runs (awaitBusy level pos) s (.ok () (s.busyLeft rest)) := by
  have hfuel : s.env.busy.length + 1 = k + (rest.length + 1 + 1) := by simp [h]; omega
  refine .get_bind ?_
  rw [hfuel]
  exact runs_awaitBusyUpTo_skip k _ h <| .point <| (runs_busyRead_given (by exact rfl)).bind <| .ite_pos rfl <| .pure _

theorem runs_awaitBusy_live {level : Bool} {pos : HostPos} (h : s.env.busy = []) (hlive : s.cfg.assumePanelLive = true) :
    Runs (awaitBusy level pos) s (.ok () s) :=
  .of_run id fun hq p => awaitBusy_run_live (s := s.withHostPos p) hq h hlive level pos

/-- A wait that no given reading ends, of a panel that is not live: the next level is free, and the host goes on or stays
(R114, log entry 7). -/
theorem runs_awaitBusy_free {level : Bool} {pos : HostPos} (k : Nat) (h : s.env.busy = List.replicate k (!level))
    (hlive : s.cfg.assumePanelLive = false) :
    Runs (awaitBusy level pos) s
      (if s.freeLevel = level then .ok () ((s.busyLeft []).drawn 1)
        else .error (.hold pos) ((s.busyLeft []).drawn 1)) := by
  have hfuel : s.env.busy.length + 1 = k + 1 := by simp [h]
  refine .get_bind ?_
  rw [hfuel]
  refine runs_awaitBusyUpTo_skip k 1 (h.trans (List.append_nil _).symm) <| .point <|
    (runs_busyRead_free (s := s.busyLeft []) rfl hlive).bind ?_
  by_cases hlevel : s.freeLevel = level
  · rw [if_pos hlevel]
    exact .ite_pos hlevel <| .pure _
  · rw [if_neg hlevel]
    exact .ite_neg hlevel <| .stayAt pos

/-! ### Power-up from a wait on -/

theorem runs_goTo (caller : PowerCaller) (n : Nat) : Runs (caller.goTo n) s (.ok () s) :=
  fun hq => ⟨hq, fun p => powerGoTo_run caller n (s.withHostPos p)⟩

theorem runs_powerLine (caller : PowerCaller) (n : Nat) : Runs (caller.atLine n) s (.ok () s) :=
  (runs_goTo caller n).seq .tick

theorem runs_powerFinish (caller : PowerCaller) : Runs caller.finish s (.ok () s) :=
  fun hq => ⟨hq, fun p => powerFinish_run_quiet (s := s.withHostPos p) hq caller⟩

section PowerUp

variable {caller : PowerCaller} {r : EStateM.Result Stop State Unit} {e : Stop}

theorem runs_powerUpFrom12 (hwait : Runs (awaitBusy (!s.cfg.busyActive) (.busyWait .line12 caller)) s (.ok () t))
    (hcfg : t.cfg = s.cfg) (ht : t.BusReady) : Runs (powerUpFrom12 caller) s (.ok () t.setupSent) := by
  refine .get_bind <| (runs_goTo caller 12).seq <| hwait.seq <| (runs_powerLine caller 13).seq ?_
  rw [← hcfg]
  exact (runs_sendTable ht ht.tables.2.1).seq <| (runs_powerLine caller 14).seq <|
    (runs_sendEntry (ht.tableSent _) _ _).seq <| (runs_powerLine caller 15).seq <| .update <|
    runs_powerFinish caller

theorem runs_powerUpFrom12_stop
    (hwait : Runs (awaitBusy (!s.cfg.busyActive) (.busyWait .line12 caller)) s (.error e t)) :
    Runs (powerUpFrom12 caller) s (.error e t) := .get_bind <| (runs_goTo caller 12).seq hwait.stop

theorem runs_powerUpFrom11 (hwait : Runs (awaitBusy s.cfg.busyActive (.busyWait .line11 caller)) s (.ok () t))
    (hk : Runs (powerUpFrom12 caller) t r) : Runs (powerUpFrom11 caller) s r :=
  .get_bind <| (runs_goTo caller 11).seq <| hwait.seq hk

theorem runs_powerUpFrom11_stop (hwait : Runs (awaitBusy s.cfg.busyActive (.busyWait .line11 caller)) s (.error e t)) :
    Runs (powerUpFrom11 caller) s (.error e t) := .get_bind <| (runs_goTo caller 11).seq hwait.stop

theorem runs_powerUpFrom8 (hwait : Runs (awaitBusy (!s.cfg.busyActive) (.busyWait .line8 caller)) s (.ok () t))
    (hcfg : t.cfg = s.cfg) (ht : t.BusReady) (hk : Runs (powerUpFrom11 caller) t.powerOnSent r) :
    Runs (powerUpFrom8 caller) s r := by
  refine .get_bind <| (runs_goTo caller 8).seq <| hwait.seq <| (runs_powerLine caller 9).seq ?_
  rw [← hcfg]
  have hentry := runs_sendEntry (ht.tableSent (panelTable t.cfg t.cfg.tablePowerup)) t.cfg.cmdPowerOn []
  exact (runs_sendTable ht ht.tables.1).seq <| (runs_powerLine caller 10).seq <| hentry.seq hk

theorem runs_powerUpFrom8_stop
    (hwait : Runs (awaitBusy (!s.cfg.busyActive) (.busyWait .line8 caller)) s (.error e t)) :
    Runs (powerUpFrom8 caller) s (.error e t) := .get_bind <| (runs_goTo caller 8).seq hwait.stop

end PowerUp

/-- How power-up called from `caller` ends: the host stays at a wait, or goes on. -/
def powered (caller : PowerCaller) : Option BusyWait × State → EStateM.Result Stop State Unit
  | (some w, t) => .error (.hold (.busyWait w caller)) t
  | (none, t) => .ok () t

section PowerUp

variable (h : s.BusReady) (caller : PowerCaller)
include h

theorem runs_powerUpFrom_live (hb : s.env.busy = []) (hlive : s.cfg.assumePanelLive = true) (w : BusyWait) :
    Runs (powerUpFrom w caller) s (.ok () (s.programmedFrom w)) := by
  have hfrom12 {u : State} (hu : u.BusReady) (honly : PanelOnly s u) :
      Runs (powerUpFrom12 caller) u (.ok () u.setupSent) :=
    runs_powerUpFrom12 (runs_awaitBusy_live (by rw [honly.env, hb]) (by rw [honly.cfg, hlive])) rfl hu
  have hfrom11 {u : State} (hu : u.BusReady) (honly : PanelOnly s u) :
      Runs (powerUpFrom11 caller) u (.ok () u.setupSent) :=
    runs_powerUpFrom11 (runs_awaitBusy_live (by rw [honly.env, hb]) (by rw [honly.cfg, hlive])) (hfrom12 hu honly)
  cases w with
  | line8 =>
    exact runs_powerUpFrom8 (runs_awaitBusy_live hb hlive) rfl h (hfrom11 h.powerOnSent (PanelOnly.powerOnSent s))
  | line11 => exact hfrom11 h (PanelOnly.refl s)
  | line12 => exact hfrom12 h (PanelOnly.refl s)

theorem runs_powerUpFrom12_free (hb : s.env.busy = []) (hlive : s.cfg.assumePanelLive = false) :
    Runs (powerUpFrom12 caller) s (powered caller s.freeFrom12) := by
  have hwait := runs_awaitBusy_free (level := !s.cfg.busyActive) (pos := .busyWait .line12 caller) 0 hb hlive
  rw [State.busyLeft_self hb] at hwait
  rw [State.freeFrom12]
  by_cases hbusy : s.freeLevel = s.cfg.busyActive
  · rw [if_neg (by simp [hbusy])] at hwait
    rw [if_pos hbusy]
    exact runs_powerUpFrom12_stop hwait
  · rw [if_pos (Bool.eq_not.2 hbusy)] at hwait
    rw [if_neg hbusy]
    exact runs_powerUpFrom12 hwait rfl (h.drawn 1)

theorem runs_powerUpFrom11_free (k : Nat) (hb : s.env.busy = List.replicate k (!s.cfg.busyActive))
    (hlive : s.cfg.assumePanelLive = false) :
    Runs (powerUpFrom11 caller) s (powered caller (s.busyLeft []).freeFrom11) := by
  have hwait := runs_awaitBusy_free (pos := .busyWait .line11 caller) k hb hlive
  rw [State.freeFrom11]
  by_cases hbusy : s.freeLevel = s.cfg.busyActive
  · rw [if_pos hbusy] at hwait
    rw [if_pos (by exact hbusy)]
    exact runs_powerUpFrom11 hwait (runs_powerUpFrom12_free ((h.busyLeft []).drawn 1) caller rfl hlive)
  · rw [if_neg hbusy] at hwait
    rw [if_neg (by exact hbusy)]
    exact runs_powerUpFrom11_stop hwait

theorem runs_powerUpFrom8_free (hb : s.env.busy = []) (hlive : s.cfg.assumePanelLive = false) :
    Runs (powerUpFrom8 caller) s (powered caller s.freeFrom8) := by
  have hwait := runs_awaitBusy_free (level := !s.cfg.busyActive) (pos := .busyWait .line8 caller) 0 hb hlive
  rw [State.busyLeft_self hb] at hwait
  rw [State.freeFrom8]
  by_cases hbusy : s.freeLevel = s.cfg.busyActive
  · rw [if_neg (by simp [hbusy])] at hwait
    rw [if_pos hbusy]
    exact runs_powerUpFrom8_stop hwait
  · rw [if_pos (Bool.eq_not.2 hbusy)] at hwait
    rw [if_neg hbusy]
    have honly := PanelOnly.powerOnSent (s.drawn 1)
    have hleft : (s.drawn 1).powerOnSent.env.busy = [] := by rw [honly.env]; exact hb
    have hfrom11 := runs_powerUpFrom11_free (h.drawn 1).powerOnSent caller 0 hleft (by rw [honly.cfg]; exact hlive)
    rw [State.busyLeft_self hleft] at hfrom11
    exact runs_powerUpFrom8 hwait rfl (h.drawn 1) hfrom11

theorem runs_powerUpFrom_free (hb : s.env.busy = []) (hlive : s.cfg.assumePanelLive = false) (w : BusyWait) :
    Runs (powerUpFrom w caller) s (powered caller (s.freeFrom w)) := by
  cases w with
  | line8 => exact runs_powerUpFrom8_free h caller hb hlive
  | line11 =>
    have hfrom11 := runs_powerUpFrom11_free h caller 0 hb hlive
    rwa [State.busyLeft_self hb] at hfrom11
  | line12 => exact runs_powerUpFrom12_free h caller hb hlive

/-- The first wait ends at a given reading. -/
theorem runs_powerUpFrom8_given (before : Nat) {rest : List Bool}
    (hb : s.env.busy = List.replicate before s.cfg.busyActive ++ (!s.cfg.busyActive) :: rest)
    {r : EStateM.Result Stop State Unit} (hk : Runs (powerUpFrom11 caller) (s.powerOnSent.busyLeft rest) r) :
    Runs (powerUpFrom8 caller) s r := by
  have hwait := runs_awaitBusy_given (level := !s.cfg.busyActive) (pos := .busyWait .line8 caller) (rest := rest) before
    (by rw [Bool.not_not]; exact hb)
  refine runs_powerUpFrom8 hwait rfl (h.busyLeft rest) ?_
  rwa [State.busyLeft_powerOnSent]

/-- The second and third waits end at given readings. -/
theorem runs_powerUpFrom11_given (missed during : Nat) {rest : List Bool}
    (hb : s.env.busy = List.replicate missed (!s.cfg.busyActive) ++ s.cfg.busyActive ::
      (List.replicate during s.cfg.busyActive ++ (!s.cfg.busyActive) :: rest)) :
    Runs (powerUpFrom11 caller) s (.ok () (s.setupSent.busyLeft rest)) := by
  have hwait := runs_awaitBusy_given
    (s := s.busyLeft (List.replicate during s.cfg.busyActive ++ (!s.cfg.busyActive) :: rest))
    (level := !s.cfg.busyActive) (pos := .busyWait .line12 caller) (rest := rest) during (by rw [Bool.not_not]; rfl)
  refine .of_eq (runs_powerUpFrom11 (runs_awaitBusy_given missed hb) (runs_powerUpFrom12 hwait rfl
    ((h.busyLeft _).busyLeft rest))) ?_
  rw [State.busyLeft_setupSent, State.busyLeft_setupSent]
  rfl

/-- Each wait ends at a given reading. -/
theorem runs_powerUpFrom8_allGiven (before missed during : Nat) {rest : List Bool}
    (hb : s.env.busy = List.replicate before s.cfg.busyActive ++ (!s.cfg.busyActive) ::
      (List.replicate missed (!s.cfg.busyActive) ++ s.cfg.busyActive ::
        (List.replicate during s.cfg.busyActive ++ (!s.cfg.busyActive) :: rest))) :
    Runs (powerUpFrom8 caller) s (.ok () (s.programmed.busyLeft rest)) := by
  refine runs_powerUpFrom8_given h caller before hb <|
    .of_eq (runs_powerUpFrom11_given (h.powerOnSent.busyLeft _) caller missed during (rest := rest) ?_) ?_
  · change _ = List.replicate missed (!s.powerOnSent.cfg.busyActive) ++ s.powerOnSent.cfg.busyActive ::
      (List.replicate during s.powerOnSent.cfg.busyActive ++ (!s.powerOnSent.cfg.busyActive) :: rest)
    rw [(PanelOnly.powerOnSent s).cfg]
    rfl
  · rw [State.busyLeft_setupSent]
    rfl

end PowerUp

/-! ### Power-up -/

theorem runs_powerUpIfNeeded_of_powered (hp : s.epd.epdPowered = true) (caller : PowerCaller) :
    Runs (powerUpIfNeeded caller) s (.ok () s) :=
  (runs_powerLine caller 1).seq <| .get_bind <| .ite_pos hp <| .pure ()

theorem runs_powerUpIfNeeded (hp : s.epd.epdPowered = false) (caller : PowerCaller)
    {r : EStateM.Result Stop State Unit} (hk : Runs (powerUpFrom8 caller) s.railUp r) :
    Runs (powerUpIfNeeded caller) s r := by
  refine (runs_powerLine caller 1).seq <| .get_bind <| .ite_neg (by simp [hp]) <| (runs_powerLine caller 2).seq <|
    (runs_pinCsAll _).seq <| (runs_powerLine caller 3).seq <| (runs_pinPwr _).seq <| (runs_powerLine caller 4).seq <|
    (runs_spiMux _).seq <| (runs_powerLine caller 5).seq <| (runs_sleep _).seq <| (runs_powerLine caller 6).seq <|
    (runs_pinRst _).seq <| (runs_powerLine caller 7).seq <| (runs_sleep _).seq ?_
  simpa [State.railUp, State.onEpd, State.emit, State.selected] using hk

/-- Power-up, and then `k` where the host does not stay at a wait. -/
def poweredThen (caller : PowerCaller) (k : State → EStateM.Result Stop State α) :
    Option BusyWait × State → EStateM.Result Stop State α
  | (some w, t) => .error (.hold (.busyWait w caller)) t
  | (none, t) => k t

theorem Runs.powered {m : M Unit} {k : M Status} {caller : PowerCaller} {x : Option BusyWait × State}
    {g : State → EStateM.Result Stop State Status} (hm : Runs m s (powered caller x)) (hk : Runs k x.2 (g x.2)) :
    Runs (m >>= fun _ => k) s (poweredThen caller g x) := by
  obtain ⟨_ | w, t⟩ := x
  · exact hm.seq hk
  · exact hm.stop

theorem State.BusReady.freeFrom (h : s.BusReady) (w : BusyWait) : (s.freeFrom w).2.BusReady := by
  have hfrom12 {u : State} (hu : u.BusReady) : u.freeFrom12.2.BusReady := by
    rw [State.freeFrom12]
    split
    · exact hu.drawn 1
    · exact (hu.drawn 1).setupSent
  have hfrom11 {u : State} (hu : u.BusReady) : u.freeFrom11.2.BusReady := by
    rw [State.freeFrom11]
    split
    · exact hfrom12 (hu.drawn 1)
    · exact hu.drawn 1
  cases w with
  | line8 =>
    rw [State.freeFrom, State.freeFrom8]
    split
    · exact h.drawn 1
    · exact hfrom11 (h.drawn 1).powerOnSent
  | line11 => exact hfrom11 h
  | line12 => exact hfrom12 h

/-- No byte is in the shifter of a block that stands at a hold. -/
theorem State.HeldQuiet.busReady (h : s.HeldQuiet) (hc : s.epd.spiConnected = true) (hcfg : paramsOk s.cfg = true) :
    s.BusReady := by
  obtain ⟨-, -, hq, -, hidle⟩ := h
  exact ⟨hq, hc, fun hbusy => absurd hbusy (by simp [hidle]), tablesOk_of_paramsOk hcfg⟩

theorem runs_startTransferTail (h : s.BusReady) (a : Bool) : Runs (startTransferTail a) s (.ok .ok (s.startSent a)) :=
  .line <| .get_bind <| (runs_sendEntry h _ _).seq <| .line <| .update <| .line <| .pure _

end Sys2Proof.Machine

namespace Sys2Proof

open Sys2Proof.Machine

/-- Settles O35: the three waits end at once, at given readings, or at free levels; from a hold the same. -/
theorem powerUpProgramsThePanel : Obligations.PowerUpProgramsThePanel := by
  have hends (x : Option BusyWait × State) : ended 0x11#8 (poweredThen .command (.ok .ok) x) =
      (match x with
        | (some w, t) => { t with hostPos := .busyWait w .command }
        | (none, t) => t.returned 0x11#8 .ok) := by
    obtain ⟨_ | w, t⟩ := x <;> rfl
  refine ⟨fun s hq => ⟨fun hp => ?_, fun hp hcfg hr => ?_⟩, fun s wait hs hpos hb hcfg hc => ?_⟩
  · exact Runs.exec (i := .epdPowerUpIfNeeded) ((runs_powerUpIfNeeded_of_powered hp .command).seq <| .pure _) hq
  · have hrail := State.BusReady.railUp hq hr (tablesOk_of_paramsOk hcfg)
    have hexec {r : EStateM.Result Stop State Status}
        (h : Runs (powerUpIfNeeded .command >>= fun _ => pure Status.ok) s r) :
        exec .epdPowerUpIfNeeded s = .next (ended 0x11#8 r) := Runs.exec (i := .epdPowerUpIfNeeded) h hq
    refine ⟨fun hb hlive => ?_, fun before missed during rest hb => ?_, fun hb hlive => ?_,
      fun before missed hlive hb => ?_⟩
    · exact hexec <| (runs_powerUpIfNeeded hp .command <| runs_powerUpFrom_live hrail .command hb hlive .line8).seq <|
        .pure _
    · rw [hexec <| (runs_powerUpIfNeeded hp .command <|
        runs_powerUpFrom8_allGiven hrail .command before missed during hb).seq <| .pure _]
      simp [ended, State.busyLeft, State.onEnv, (PanelOnly.programmed s.railUp).env]
    · exact (hexec <| (runs_powerUpIfNeeded hp .command <| runs_powerUpFrom8_free hrail .command hb hlive).powered
        (.pure _)).trans (congrArg _ (hends _))
    · have hcfg' : s.railUp.powerOnSent.cfg = s.cfg := (PanelOnly.powerOnSent s.railUp).cfg
      have hfrom11 := runs_powerUpFrom11_free (hrail.powerOnSent.busyLeft (List.replicate missed (!s.cfg.busyActive)))
        .command missed (by change _ = List.replicate missed (!s.railUp.powerOnSent.cfg.busyActive); rw [hcfg']; rfl)
        (by change s.railUp.powerOnSent.cfg.assumePanelLive = false; rw [hcfg']; exact hlive)
      refine (hexec <| (runs_powerUpIfNeeded hp .command <| runs_powerUpFrom8_given hrail .command before hb
        hfrom11).powered (.pure _)).trans (congrArg _ ?_)
      rw [hends]
      simp only [State.busyLeft, State.onEnv, (PanelOnly.powerOnSent s.railUp).env]
      rfl
  · have hhold : s.hostPos.IsHold := by rw [hpos]; exact ⟨nofun, nofun⟩
    have hready := hs.busReady hc hcfg
    have hstep {r : EStateM.Result Stop State Status}
        (h : Runs (powerUpFrom wait .command >>= fun _ => pure Status.ok) s r) :
        step s = .next (ended 0x11#8 r) := by
      rw [Runs.step_held hs hhold (r := r) (by rw [hpos]; exact h), hpos]
      rfl
    exact ⟨fun hlive => hstep <| (runs_powerUpFrom_live hready .command hb hlive wait).seq <| .pure _,
      fun hlive => (hstep <| (runs_powerUpFrom_free hready .command hb hlive wait).powered (.pure _)).trans
        (congrArg _ (hends _))⟩

/-- Settles O37: power-up ends or stays as in O35, and the start command follows. -/
theorem startTransferSelectsThePlane : Obligations.StartTransferSelectsThePlane := by
  have hends (a : Bool) (x : Option BusyWait × State) :
      ended 0x13#8 (poweredThen (.startTransfer a) (fun t => .ok .ok (t.startSent a)) x) =
      (match x with
        | (some w, t) => { t with hostPos := .busyWait w (.startTransfer a) }
        | (none, t) => (t.startSent a).returned 0x13#8 .ok) := by
    obtain ⟨_ | w, t⟩ := x <;> rfl
  refine ⟨fun s a hq hb hcfg hr hconnected => ?_, fun s a wait hs hpos hb hcfg hc => ?_⟩
  · have hexec {r : EStateM.Result Stop State Status}
        (h : Runs (powerUpIfNeeded (.startTransfer a) >>= fun _ => startTransferTail a) s r) :
        exec (.epdStartTransfer a) s = .next (ended 0x13#8 r) := Runs.exec (i := .epdStartTransfer a) h hq
    have hpowered (hp : s.epd.epdPowered = true) :
        exec (.epdStartTransfer a) s = .next (State.returned 0x13#8 .ok (s.startSent a)) :=
      hexec <| (runs_powerUpIfNeeded_of_powered hp _).seq <|
        runs_startTransferTail ⟨hq, hconnected hp, hr, tablesOk_of_paramsOk hcfg⟩ a
    have hrail := State.BusReady.railUp hq hr (tablesOk_of_paramsOk hcfg)
    refine ⟨fun hlive => ?_, hpowered, fun hp hlive => ?_⟩
    · rw [State.transferStarted, State.poweredUp]
      by_cases hp : s.epd.epdPowered = true
      · rw [if_pos hp]
        exact hpowered hp
      · rw [if_neg hp]
        exact hexec <| (runs_powerUpIfNeeded (by simpa using hp) _ <|
          runs_powerUpFrom_live hrail _ hb hlive .line8).seq <| runs_startTransferTail (hrail.programmedFrom .line8) a
    · exact (hexec <| (runs_powerUpIfNeeded hp _ <| runs_powerUpFrom8_free hrail _ hb hlive).powered
        (g := fun t => .ok .ok (t.startSent a))
        (runs_startTransferTail (hrail.freeFrom .line8) a)).trans (congrArg _ (hends a _))
  · have hhold : s.hostPos.IsHold := by rw [hpos]; exact ⟨nofun, nofun⟩
    have hready := hs.busReady hc hcfg
    have hstep {r : EStateM.Result Stop State Status}
        (h : Runs (powerUpFrom wait (.startTransfer a) >>= fun _ => startTransferTail a) s r) :
        step s = .next (ended 0x13#8 r) := by
      rw [Runs.step_held hs hhold (r := r) (by rw [hpos]; exact h), hpos]
      rfl
    exact ⟨fun hlive => hstep <| (runs_powerUpFrom_live hready _ hb hlive wait).seq <|
        runs_startTransferTail (hready.programmedFrom wait) a,
      fun hlive => (hstep <| (runs_powerUpFrom_free hready _ hb hlive wait).powered
        (g := fun t => .ok .ok (t.startSent a))
        (runs_startTransferTail (hready.freeFrom wait) a)).trans (congrArg _ (hends a _))⟩

end Sys2Proof

/-! PROOF. The refresh loop with no other agent scheduled (R89, R113, R114): its readings one by one, and its ends. -/

namespace Sys2Proof.Machine

variable {s t : State} {caller : RefreshCaller} {m v low : U16} {vs more : List U16}

/-! ### The minimum of the codes -/

theorem minCode_toNat (a b : U16) : (minCode a b).toNat = min a.toNat b.toNat := by
  rw [minCode]
  split <;> omega

/-- The fold over the codes is their minimum, which the loop's first code never undercuts. -/
theorem foldl_minCode_eq (hmem : low ∈ vs) (hle : ∀ v ∈ vs, low.toNat ≤ v.toNat) : vs.foldl minCode 0xFFFF#16 = low := by
  have hfold (m : U16) (vs : List U16) : (vs.foldl minCode m = m ∨ vs.foldl minCode m ∈ vs) ∧
      ∀ v ∈ m :: vs, (vs.foldl minCode m).toNat ≤ v.toNat := by
    induction vs generalizing m with
    | nil => simp
    | cons v vs ih =>
      obtain ⟨hin, hmin⟩ := ih (minCode m v)
      have hfirst := hmin _ List.mem_cons_self
      rw [minCode_toNat] at hfirst
      refine ⟨?_, fun u hu => ?_⟩
      · rcases hin with hin | hin
        · rw [List.foldl_cons, hin, minCode]
          split
          · exact .inr List.mem_cons_self
          · exact .inl rfl
        · exact .inr (List.mem_cons_of_mem _ hin)
      · rw [List.foldl_cons]
        rcases List.mem_cons.1 hu with rfl | hu
        · omega
        · rcases List.mem_cons.1 hu with rfl | hu
          · omega
          · exact hmin u (List.mem_cons_of_mem _ hu)
  obtain ⟨hin, hmin⟩ := hfold 0xFFFF#16 vs
  have hbelow := hmin low (List.mem_cons_of_mem _ hmem)
  refine BitVec.eq_of_toNat_eq (Nat.le_antisymm hbelow ?_)
  rcases hin with hin | hin
  · rw [hin]
    exact Nat.le_of_lt_succ low.isLt
  · exact hle _ hin

/-! ### One reading -/

/-- The next code read (R89 lines 5 and 6). -/
def State.codeRead (s : State) : State :=
  { s with env := s.nextCode.2, trace := s.trace ++ refreshEvents [s.nextCode.1] }

/-- The codes `vs` read, and the readings and codes that are left. -/
def State.codesRead (vs more : List U16) (bs : List Bool) (s : State) : State :=
  { s with env := { s.env with busy := bs, adc := more }, trace := s.trace ++ refreshEvents vs }

theorem State.nextCode_of_adc (h : s.env.adc = v :: more) : s.nextCode = (v, { s.env with adc := more }) := by
  rw [State.nextCode, h]

theorem State.codeRead_of_adc (h : s.env.adc = v :: more) : s.codeRead = s.codesRead [v] more s.env.busy := by
  rw [State.codeRead, State.nextCode_of_adc h]
  rfl

theorem State.codeRead_busy : s.codeRead.env.busy = s.env.busy := by
  rw [State.codeRead, State.nextCode]
  split <;> rfl

theorem State.codeRead_sched : s.codeRead.env.sched = s.env.sched := by
  rw [State.codeRead, State.nextCode]
  split <;> rfl

theorem State.BusReady.codeRead (h : s.BusReady) : s.codeRead.BusReady := h.of_eq rfl rfl State.codeRead_sched

theorem State.BusReady.codesRead (h : s.BusReady) (bs : List Bool) : (s.codesRead vs more bs).BusReady :=
  h.of_eq rfl rfl rfl

theorem runs_refreshPolls_succ {fuel : Nat} {r : EStateM.Result Stop State U16}
    (hk : Runs (busyRead (!s.cfg.busyActive) >>= fun b =>
      if b ≠ s.cfg.busyActive then pure (minCode m s.nextCode.1) else refreshPolls caller fuel (minCode m s.nextCode.1))
      s.codeRead r) :
    Runs (refreshPolls caller (fuel + 1) m) s r := by
  have hsleep : s.codeRead = ((s.emit (.sleep tPoll)).emit (.adc s.nextCode.1)).onEnv fun _ => s.nextCode.2 := by
    simp [State.codeRead, State.emit, State.onEnv, refreshEvents, tPoll]
  rw [hsleep] at hk
  exact .get_bind <| .line <| .line <| (runs_sleep _).seq <| .line <| (runs_adcSample (s := s.emit _)).bind <| .update <|
    .line hk

/-- Busy readings, each with its code. -/
theorem runs_refreshPolls_skip {rest : List Bool} {r : EStateM.Result Stop State U16} (fuel : Nat)
    (hb : s.env.busy = List.replicate vs.length s.cfg.busyActive ++ rest) (hadc : s.env.adc = vs ++ more)
    (hk : Runs (refreshPolls caller fuel (vs.foldl minCode m)) (s.codesRead vs more rest) r) :
    Runs (refreshPolls caller (vs.length + fuel) m) s r := by
  induction vs generalizing s m with
  | nil =>
    have hsame : s.codesRead [] more rest = s := by
      rw [State.codesRead, ← show s.env.busy = rest from hb, ← show s.env.adc = more from hadc]
      simp [refreshEvents]
    rw [hsame] at hk
    rwa [List.length_nil, Nat.zero_add]
  | cons v vs ih =>
    rw [List.length_cons, Nat.add_right_comm]
    refine runs_refreshPolls_succ ?_
    rw [State.codeRead_of_adc hadc, State.nextCode_of_adc hadc]
    refine (runs_busyRead_given (by exact hb)).bind <| .ite_neg (by simp) <| ih rfl rfl ?_
    simpa [State.codesRead, State.busyLeft, State.onEnv, refreshEvents] using hk

theorem runs_refreshPolls_given {rest : List Bool} (fuel : Nat) (hb : s.env.busy = (!s.cfg.busyActive) :: rest)
    (hadc : s.env.adc = v :: more) :
    Runs (refreshPolls caller (fuel + 1) m) s (.ok (minCode m v) (s.codesRead [v] more rest)) := by
  refine runs_refreshPolls_succ ?_
  rw [State.codeRead_of_adc hadc, State.nextCode_of_adc hadc]
  exact (runs_busyRead_given (by exact hb)).bind <| .ite_pos (by simp) <| .pure _

/-- Past the given readings a live panel reads clear at once (R113, log entry 7). -/
theorem runs_refreshPolls_live (fuel : Nat) (hb : s.env.busy = []) (hlive : s.cfg.assumePanelLive = true) :
    Runs (refreshPolls caller (fuel + 1) m) s (.ok (minCode m s.nextCode.1) s.codeRead) :=
  runs_refreshPolls_succ <| (runs_busyRead_live (State.codeRead_busy.trans hb) hlive).bind <| .ite_pos (by simp) <|
    .pure _

/-- The end of the loop at a free level: the host stays in it where the level is busy. -/
def refreshFreeEnd (caller : RefreshCaller) (low : U16) (s : State) : EStateM.Result Stop State U16 :=
  if s.freeLevel = s.cfg.busyActive then .error (.hold (.refreshPoll low caller)) (s.drawn 1) else .ok low (s.drawn 1)

theorem runs_refreshPolls_free (hb : s.env.busy = []) (hlive : s.cfg.assumePanelLive = false) :
    Runs (refreshPolls caller 1 m) s (refreshFreeEnd caller (minCode m s.nextCode.1) s.codeRead) := by
  refine runs_refreshPolls_succ <| (runs_busyRead_free (State.codeRead_busy.trans hb) hlive).bind ?_
  rw [refreshFreeEnd]
  by_cases hbusy : s.codeRead.freeLevel = s.codeRead.cfg.busyActive
  · rw [if_pos hbusy]
    exact .ite_neg (not_not.2 hbusy) <| .stayAt _
  · rw [if_neg hbusy]
    exact .ite_pos hbusy <| .pure _

/-! ### The command -/

theorem runs_shutdownPoint (n : Nat) : Runs (shutdownPoint n) s (.ok () s) := by
  by_cases hn : n ≤ 9
  · exact .ite_pos hn .tick
  · exact .ite_neg hn <| .pure ()

theorem runs_refreshFrom (hpoll : Runs (refreshPolls caller (s.env.busy.length + 1) m) s (.ok low t))
    (hcfg : t.cfg = s.cfg) (ht : t.BusReady) : Runs (refreshFrom caller m) s (.ok .ok (State.refreshEnded low t)) := by
  have hready : State.BusReady ((t.onEpd fun d =>
      { d with postRefreshBatt := some (adcScale t.cfg low) }).emit .baselineRepower) :=
    ⟨ht.quiet, ht.connected, ht.ready, ht.tables⟩
  refine .get_bind <| hpoll.bind <| .line ?_
  rw [← hcfg]
  exact .update <| .line <| .update <| .line <|
    (runs_shutdown (fun n _ => runs_shutdownPoint n) fun _ => hready).seq <| .line <| .pure _

theorem runs_refreshFrom_hold {e : Stop} (hpoll : Runs (refreshPolls caller (s.env.busy.length + 1) m) s (.error e t)) :
    Runs (refreshFrom caller m) s (.error e t) := .get_bind hpoll.stop

/-- The end of the command whose loop ended at a free level. -/
def refreshFreeResult (caller : RefreshCaller) (low : U16) (s : State) : EStateM.Result Stop State Status :=
  if s.freeLevel = s.cfg.busyActive then .error (.hold (.refreshPoll low caller)) (s.drawn 1)
  else .ok .ok (State.refreshEnded low (s.drawn 1))

theorem runs_refreshFrom_freeEnd
    (hpoll : Runs (refreshPolls caller (s.env.busy.length + 1) m) s (refreshFreeEnd caller low t))
    (hcfg : t.cfg = s.cfg) (ht : t.BusReady) : Runs (refreshFrom caller m) s (refreshFreeResult caller low t) := by
  rw [refreshFreeEnd] at hpoll
  rw [refreshFreeResult]
  by_cases hbusy : t.freeLevel = t.cfg.busyActive
  · rw [if_pos hbusy] at hpoll ⊢
    exact runs_refreshFrom_hold hpoll
  · rw [if_neg hbusy] at hpoll ⊢
    exact runs_refreshFrom hpoll hcfg (ht.drawn 1)

section Codes

variable {init : List U16} (h : s.BusReady) (hadc : s.env.adc = init ++ v :: more)
include h hadc

theorem runs_refreshFrom_given {rest : List Bool}
    (hb : s.env.busy = List.replicate init.length s.cfg.busyActive ++ (!s.cfg.busyActive) :: rest) :
    Runs (refreshFrom caller m) s (.ok .ok (State.refreshEnded (minCode (init.foldl minCode m) v)
      (s.codesRead (init ++ [v]) more rest))) := by
  have hlast := runs_refreshPolls_given (caller := caller) (m := init.foldl minCode m) (rest.length + 1)
    (s := s.codesRead init (v :: more) ((!s.cfg.busyActive) :: rest)) rfl rfl
  have hpoll := runs_refreshPolls_skip (rest.length + 1 + 1) hb hadc hlast
  have hfuel : s.env.busy.length + 1 = init.length + (rest.length + 1 + 1) := by simp [hb]; omega
  rw [← hfuel] at hpoll
  refine .of_eq (runs_refreshFrom hpoll rfl ((h.codesRead _).codesRead _)) ?_
  simp [State.codesRead, refreshEvents]

/-- Past the given readings the level of a panel that is not live is free. -/
theorem runs_refreshFrom_free (hb : s.env.busy = List.replicate init.length s.cfg.busyActive)
    (hlive : s.cfg.assumePanelLive = false) :
    Runs (refreshFrom caller m) s (refreshFreeResult caller (minCode (init.foldl minCode m) v)
      (s.codesRead (init ++ [v]) more [])) := by
  have hlast := runs_refreshPolls_free (caller := caller) (m := init.foldl minCode m)
    (s := s.codesRead init (v :: more) []) rfl hlive
  rw [State.codeRead_of_adc rfl, State.nextCode_of_adc rfl] at hlast
  have hpoll := runs_refreshPolls_skip 1 (hb.trans (List.append_nil _).symm) hadc hlast
  have hfuel : s.env.busy.length + 1 = init.length + 1 := by simp [hb]
  rw [← hfuel] at hpoll
  refine .of_eq (runs_refreshFrom_freeEnd hpoll rfl ((h.codesRead _).codesRead _)) ?_
  simp [State.codesRead, refreshEvents]

end Codes

/-- A live panel with no reading given. -/
theorem runs_refreshFrom_live (h : s.BusReady) (hb : s.env.busy = []) (hlive : s.cfg.assumePanelLive = true) :
    Runs (refreshFrom caller m) s (.ok .ok (State.refreshEnded (minCode m s.nextCode.1) s.codeRead)) :=
  runs_refreshFrom (runs_refreshPolls_live _ hb hlive) rfl h.codeRead

theorem runs_refreshAndSleep (h : s.BusReady) (hp : s.epd.epdPowered = true) {r : EStateM.Result Stop State Status}
    (hk : Runs (refreshFrom caller 0xFFFF#16) (s.tableSent (panelTable s.cfg s.cfg.tableRefresh)) r) :
    Runs (refreshAndSleep caller) s r :=
  .line <| .get_bind <| .ite_neg (by simp [hp]) <| .line <| (runs_sendTable h h.tables.2.2.2).seq <| .line hk

theorem Runs.command_stop {op : Byte} {body : M Status} {e : Stop} (h : Runs body s (.error e t)) :
    Runs (Machine.command op body) s (.error e t) := h.stop

end Sys2Proof.Machine

namespace Sys2Proof

open Sys2Proof.Machine

/-- Settles O39: the loop's readings are given or free, and from a hold the same in each caller. -/
theorem refreshTracksTheMinimumCode : Obligations.RefreshTracksTheMinimumCode := by
  refine ⟨fun s vs more busy low hq hp hc hr hcfg hadc hlen hmem hmin => ?_,
    fun s m v vs caller hs hpos hp hc hcfg hadc hb => ?_⟩
  · have hready : s.BusReady := ⟨hq, hc, hr, tablesOk_of_paramsOk hcfg⟩
    have hexec {r : EStateM.Result Stop State Status} (h : Runs (refreshAndSleep .command) s r) :
        exec .epdRefreshAndSleep s = .next (ended 0x15#8 r) := Runs.exec (i := .epdRefreshAndSleep) h hq
    obtain ⟨init, v, rfl⟩ : ∃ init v, vs = init ++ [v] :=
      ⟨vs.dropLast, vs.getLast (List.ne_nil_of_length_eq_add_one hlen), (List.dropLast_append_getLast _).symm⟩
    obtain rfl : init.length = busy := by simpa using hlen
    have hfold : minCode (init.foldl minCode 0xFFFF#16) v = low := by
      rw [← foldl_minCode_eq hmem hmin, List.foldl_append]
      rfl
    have henv := (PanelOnly.tableSent s (panelTable s.cfg s.cfg.tableRefresh)).env
    have hcfg' := (PanelOnly.tableSent s (panelTable s.cfg s.cfg.tableRefresh)).cfg
    have hsent := hready.tableSent (panelTable s.cfg s.cfg.tableRefresh)
    have hadc' : (s.tableSent (panelTable s.cfg s.cfg.tableRefresh)).env.adc = init ++ v :: more := by
      rw [henv, hadc, List.append_assoc]
      rfl
    refine ⟨fun rest hb => ?_, fun hb hlive => ?_⟩
    · rw [hexec (runs_refreshAndSleep hready hp (runs_refreshFrom_given hsent hadc' (by rw [henv, hcfg', hb]))), hfold,
        State.codesRead, henv]
      rfl
    · rw [hexec (runs_refreshAndSleep hready hp (runs_refreshFrom_free hsent hadc' (by rw [henv, hcfg', hb])
        (by rw [hcfg', hlive]))), hfold, refreshFreeResult, State.codesRead, henv]
      by_cases hbusy : s.freeLevel = s.cfg.busyActive
      · rw [if_pos (by exact hbusy.trans (congrArg Params.busyActive hcfg'.symm)), if_pos hbusy]
        rfl
      · rw [if_neg (by exact fun heq => hbusy (heq.trans (congrArg Params.busyActive hcfg'))), if_neg hbusy]
        rfl
  · have hhold : s.hostPos.IsHold := by rw [hpos]; exact ⟨nofun, nofun⟩
    have hready := hs.busReady hc hcfg
    have hstep {r : EStateM.Result Stop State Status} (h : Runs (heldBody (.refreshPoll m caller)) s r) :
        step s = .next (ended (heldOpcode (.refreshPoll m caller)) r) := by
      rw [Runs.step_held hs hhold (r := r) (by rw [hpos]; exact h), hpos]
    refine ⟨fun hlive => ?_, fun hlive => ?_⟩
    · have hrun := runs_refreshFrom_live (caller := caller) (m := m) hready hb hlive
      rw [State.nextCode_of_adc hadc, State.codeRead_of_adc hadc] at hrun
      cases caller with
      | command => exact hstep hrun
      | drawImage => exact hstep <| hrun.command.seq <| .line <| .pure _
      | drawScreen => exact hstep <| hrun.command.seq <| .line <| .pure _
    · have hrun := runs_refreshFrom_free (caller := caller) (m := m) (init := []) hready hadc hb hlive
      rw [refreshFreeResult, State.codesRead, ← hb] at hrun
      by_cases hbusy : s.freeLevel = s.cfg.busyActive
      · rw [if_pos (by exact hbusy)] at hrun
        simp only [if_pos hbusy]
        cases caller with
        | command => exact hstep hrun
        | drawImage => exact hstep hrun.command_stop.stop
        | drawScreen => exact hstep hrun.command_stop.stop
      · rw [if_neg (by exact hbusy)] at hrun
        simp only [if_neg hbusy]
        cases caller with
        | command => exact hstep hrun
        | drawImage => exact hstep <| hrun.command.seq <| .line <| .pure _
        | drawScreen => exact hstep <| hrun.command.seq <| .line <| .pure _

end Sys2Proof

/-! PROOF. The draw client's windows, text runs and `OrPixel`, with no other agent scheduled (R94, R96, R97, R98, R100,
R102). -/

namespace Sys2Proof.Machine

variable {α : Type} {s t : State} {top x : U16}

/-! ### Shared pieces -/

/-- Line 1 of a compositing primitive in a callback (R45). -/
theorem Runs.inDraw {i : Instr} {body : M Status} {r : EStateM.Result Stop State Status} (hdraw : s.draw.drawing = true)
    (hb : Runs body s r) : Runs (inDraw i body) s r :=
  .line <| .get_bind <| .ite_neg (by simp [hdraw]) hb

theorem runs_hostRead_of_holds {a : Nat} {bs : List Byte} (hh : s.HostHolds a bs) {i : Nat} {b : Byte}
    (hi : bs[i]? = some b) : Runs (hostRead (a + i)) s (.ok b s) :=
  .of_run id fun _ p => hostRead_run_of_holds (s := s.withHostPos p) hh hi

theorem runs_hostU16 {a : Nat} {bs : List Byte} (hh : s.HostHolds a bs) {i : Nat} {lo hi : Byte}
    (h0 : bs[i]? = some lo) (h1 : bs[i + 1]? = some hi) :
    Runs (hostU16 (a + i)) s (.ok (lo.toNat + 256 * hi.toNat) s) :=
  .of_run id fun _ p => hostU16_run_of_holds (s := s.withHostPos p) hh h0 h1

/-- A 16-bit field of two bytes (R28). -/
theorem toU16_of_bytes (lo hi : Byte) : toU16 (lo.toNat + 256 * hi.toNat) = hi ++ lo := by
  refine BitVec.eq_of_toNat_eq ?_
  have hlo := lo.isLt
  have hhi := hi.isLt
  rw [toU16, BitVec.toNat_append, ← Nat.shiftLeft_add_eq_or_of_lt hlo, Nat.shiftLeft_eq, BitVec.toNat_ofNat]
  omega

/-- `SetWindowY` where the planes are not packed (R98 lines 2 to 7). -/
theorem runs_setWindowY {point : Nat → M Unit} (hpoint : ∀ n u, Runs (point n) u (.ok () u)) (start height : Nat)
    (htop : s.draw.chunkStartY = some top) (hx : s.draw.curX = some x) (hpacked : s.cfg.packedPlanes = false) :
    Runs (setWindowY point start height) s
      (.ok (windowOutside s.cfg start height top.toNat) (s.windowYSet start height top x)) := by
  have hbias (u : State) (hu : u.cfg = s.cfg) : Runs bias u (.ok 0 u) :=
    .get_bind <| .ite_neg (by simp [hu, hpacked]) <| .pure 0
  refine (hpoint _ _).seq <| .update <| (hpoint _ _).seq <| .get_bind <| .readReg htop <| (hpoint _ _).seq <| .update <|
    .update <| (hpoint _ _).seq ?_
  by_cases hout : windowOutside s.cfg start height top.toNat = true
  · refine .of_eq (.ite_neg (by simp [hout]) <| .pure _) ?_
    simp [State.windowYSet, hout, State.onDraw, State.onRes]
  · refine .of_eq (.ite_pos (by simpa using hout) <| (hpoint _ _).seq <| .update <| (hpoint _ _).seq <| .get_bind <|
      .readReg hx <| (hbias _ (by exact rfl)).bind <| .update <| .pure _) ?_
    simp [State.windowYSet, hout, State.onDraw, State.onRes]

/-! ### Windows and text runs -/

theorem runs_clientSetWindowX (hdraw : s.draw.drawing = true) (start width : BitVec 12) :
    Runs (clientSetWindowX start width) s (.ok .ok (s.windowXSet start.toNat width.toNat)) :=
  .inDraw hdraw <| .line <| .update <| .update <| .line <| .pure _

theorem runs_clientSetWindowY (hdraw : s.draw.drawing = true) (start height : BitVec 12)
    (htop : s.draw.chunkStartY = some top) (hx : s.draw.curX = some x) (hpacked : s.cfg.packedPlanes = false) :
    Runs (clientSetWindowY start height) s (.ok .ok (s.windowYSet start.toNat height.toNat top x)) :=
  .inDraw hdraw <| (runs_setWindowY (fun n _ => .atLine _ n) _ _ htop hx hpacked).bind <| .line <| .pure _

theorem runs_clientPrintEnd (hdraw : s.draw.drawing = true) :
    Runs clientPrintEnd s (.ok .ok (s.onDraw fun d => { d with printing := false })) :=
  .inDraw hdraw <| .line <| .update <| .line <| .pure _

section PrintBegin

variable {a : U16} {xl xh yl yh dir size col : Byte} (hdraw : s.draw.drawing = true)
  (hh : s.HostHolds a.toNat [xl, xh, yl, yh, dir, size, col])
include hdraw hh

theorem runs_clientPrintBegin {d : Direction} {c : Plane} (hd : directionOfByte dir = some d)
    (hc : planeOfByte col = some c) :
    Runs (clientPrintBegin a) s (.ok .ok (s.onDraw fun w =>
      { w with
        curX := some (xh ++ xl), curY := some (yh ++ yl), direction := some d, fontSize := some size, color := some c,
        printing := true })) := by
  refine .inDraw hdraw <| .line <| (runs_hostU16 (i := 0) hh rfl rfl).bind <| (runs_hostU16 hh rfl rfl).bind <|
    (runs_hostRead_of_holds hh rfl).bind <| (runs_hostRead_of_holds hh rfl).bind <|
    (runs_hostRead_of_holds hh rfl).bind <| .line ?_
  rw [hd, hc, toU16_of_bytes, toU16_of_bytes]
  exact .line <| .update <| .line <| .update <| .line <| .pure _

theorem runs_clientPrintBegin_of_reserved (hbad : directionOfByte dir = none ∨ planeOfByte col = none) :
    Runs (clientPrintBegin a) s (.error (.refuse (.reservedOperand (encode (.clientPrintBegin a)))) s) := by
  refine .inDraw hdraw <| .line <| (runs_hostU16 (i := 0) hh rfl rfl).bind <| (runs_hostU16 hh rfl rfl).bind <|
    (runs_hostRead_of_holds hh rfl).bind <| (runs_hostRead_of_holds hh rfl).bind <|
    (runs_hostRead_of_holds hh rfl).bind <| .line ?_
  rcases hd : directionOfByte dir with _ | d
  · exact .refuse _
  · rw [hbad.resolve_left (by simp [hd])]
    exact .refuse _

end PrintBegin

/-- A byte above 1 has no meaning (R54). -/
theorem planeOfByte_of_lt {b : Byte} (h : 1 < b.toNat) : planeOfByte b = none := by
  rw [planeOfByte, if_neg, if_neg] <;> rintro rfl <;> simp at h

theorem directionOfByte_of_lt {b : Byte} (h : 1 < b.toNat) : directionOfByte b = none := by
  rw [directionOfByte, if_neg, if_neg] <;> rintro rfl <;> simp at h

/-! ### A whole draw's refusals -/

theorem runs_clientDrawImage_of_packed (hpacked : s.cfg.packedPlanes = true) (addr : U24) :
    Runs (clientDrawImage addr) s (.error (.refuse .unmodelledConfig) s) :=
  .line <| .get_bind <| .ite_pos hpacked <| .refuse _

theorem runs_clientDrawImage_of_unsupported (hpacked : s.cfg.packedPlanes = false) {addr : U24} {tag : Byte}
    (htag : tag = flashRead s.env addr) (h1 : tag ≠ s.cfg.type1bpp) (h2 : tag ≠ s.cfg.type2bpp) :
    Runs (clientDrawImage addr) s (.ok .unsupportedImage
      ((s.emit (.flashRead addr 1)).emit (.log .unsupportedImage [tag]))) := by
  subst htag
  exact .line <| .get_bind <| .ite_neg (by simp [hpacked]) <| .line <| .update <| .line <| .ite_pos ⟨h1, h2⟩ <| .line <|
    .update <| .line <| .pure _

end Sys2Proof.Machine

namespace Sys2Proof

open Sys2Proof.Machine

/-- Settles O41: the window and the cursor are written in one line. -/
theorem setWindowXMovesTheCursor : Obligations.SetWindowXMovesTheCursor := fun _ start width hq hdraw =>
  Runs.exec (i := .clientSetWindowX start width) (runs_clientSetWindowX hdraw start width) hq

/-- Settles O42: the window's closed form, and the test on lines. -/
theorem setWindowYTestsTheChunk : Obligations.SetWindowYTestsTheChunk := by
  intro s start height top x hq hdraw hpacked htop hx hlines
  refine ⟨Runs.exec (i := .clientSetWindowY start height)
    (runs_clientSetWindowY hdraw start height htop hx hpacked) hq, ?_⟩
  rw [windowOutside, decide_eq_true_eq]
  constructor
  · rintro hout ⟨y, hlow, hhigh, htop, hend⟩
    omega
  · intro hnone
    by_contra hmeets
    exact hnone ⟨max start.toNat top.toNat, by omega, by omega, by omega, by omega⟩

/-- Settles O44: the argument block is read, and its two bytes with a meaning decide. -/
theorem printBeginOpensATextRun : Obligations.PrintBeginOpensATextRun := by
  intro s a xl xh yl yh dir size col hq hdraw hh
  refine ⟨fun d c hd hc => ?_, fun hbad => ?_⟩
  · have hd : directionOfByte dir = some d := by rcases hd with ⟨rfl, rfl⟩ | ⟨rfl, rfl⟩ <;> rfl
    have hc : planeOfByte col = some c := by rcases hc with ⟨rfl, rfl⟩ | ⟨rfl, rfl⟩ <;> rfl
    exact Runs.exec (i := .clientPrintBegin a) (runs_clientPrintBegin hdraw hh hd hc) hq
  · exact Runs.exec (i := .clientPrintBegin a) (runs_clientPrintBegin_of_reserved hdraw hh
      (hbad.imp directionOfByte_of_lt planeOfByte_of_lt)) hq

/-- Settles O46: one line closes the run. -/
theorem printEndClosesTheTextRun : Obligations.PrintEndClosesTheTextRun := fun _ hq hdraw =>
  Runs.exec (i := .clientPrintEnd) (runs_clientPrintEnd hdraw) hq

/-- Settles O50: the tag is read and logged, or the packed planes refused. -/
theorem unsupportedImageIsOnlyLogged : Obligations.UnsupportedImageIsOnlyLogged := by
  intro s addr tag hq
  refine ⟨fun hpacked => Runs.exec (i := .clientDrawImage addr) (runs_clientDrawImage_of_packed hpacked addr) hq,
    fun hpacked htag h1 h2 => ?_⟩
  rw [Runs.exec (i := .clientDrawImage addr) (runs_clientDrawImage_of_unsupported hpacked htag h1 h2) hq]
  simp [ended, State.emit, Instr.opcode]

end Sys2Proof

/-! PROOF. `OrPixel` with no other agent scheduled (R96): what one pixel does, and what a sequence of pixels leaves. -/

namespace Sys2Proof.Machine

variable {α : Type} {s t u : State}

/-! ### One pixel -/

/-- The registers that clip a pixel (R96). -/
structure Clip where
  (color pass : Plane) (x0 x1 y0 y1 top : U16)

/-- The block's clipping registers. -/
structure State.ClipsTo (s : State) (v : Clip) : Prop where
  color : s.draw.color = some v.color
  pass : s.draw.passPlane = some v.pass
  x0 : s.draw.winX0 = some v.x0
  x1 : s.draw.winX1 = some v.x1
  y0 : s.draw.winY0 = some v.y0
  y1 : s.draw.winY1 = some v.y1
  top : s.draw.chunkStartY = some v.top

variable {v : Clip} {x y : Nat}

theorem State.ClipsTo.visible_iff (h : s.ClipsTo v) :
    s.visible x y ↔ v.color = v.pass ∧ x < s.cfg.screenW ∧ v.x0.toNat ≤ x ∧ x < v.x1.toNat ∧
      v.y0.toNat ≤ y ∧ y < v.y1.toNat ∧ v.top.toNat ≤ y ∧ y < v.top.toNat + s.cfg.linesPerChunk := by
  rw [State.visible, h.color, h.pass, h.x0, h.x1, h.y0, h.y1, h.top]
  simp

/-- The buffer offset of a pixel's byte (R96). -/
def pixelOffset (p : Params) (v : Clip) (x y : Nat) : Nat :=
  x / 8 + (y - v.top.toNat) * p.bytesPerLine + (if p.packedPlanes = true ∧ v.color = .accent then p.planeBias else 0)

theorem bias_run (h : s.ClipsTo v) :
    bias.run s = .ok (if s.cfg.packedPlanes = true ∧ v.color = .accent then s.cfg.planeBias else 0) s := by
  rw [bias, run_bind_ok (run_get_ok s), h.color]
  by_cases hpacked : s.cfg.packedPlanes = true
  · simp only [hpacked, if_true, true_and]
    rfl
  · rw [if_neg hpacked, if_neg fun h => hpacked h.1]
    rfl

/-- A clipped pixel changes nothing. -/
theorem orPixel_run_of_clipped (hq : s.Quiet) (h : s.ClipsTo v) (hclip : ¬s.visible x y) :
    (orPixel x y).run s = .ok () s := by
  rw [h.visible_iff] at hclip
  rw [orPixel, run_bind_ok (tick_run_quiet hq), run_bind_ok (run_get_ok s), h.color, h.pass, h.x0, h.x1, h.y0, h.y1,
    h.top,
    run_bind_ok (readReg_some_run _ _ _), run_bind_ok (readReg_some_run _ _ _)]
  by_cases hplane : v.color = v.pass
  · rw [if_neg (not_not.2 hplane), run_bind_ok (readReg_some_run _ _ _), run_bind_ok (readReg_some_run _ _ _)]
    by_cases hx : s.cfg.screenW ≤ x ∨ x < v.x0.toNat ∨ v.x1.toNat ≤ x
    · rw [if_pos hx]
      rfl
    · rw [if_neg hx, run_bind_ok (readReg_some_run _ _ _), run_bind_ok (readReg_some_run _ _ _),
        run_bind_ok (readReg_some_run _ _ _), if_pos]
      · rfl
      · by_contra hy
        exact hclip ⟨hplane, by omega⟩
  · rw [if_pos hplane]
    rfl

/-- A visible pixel looks at its byte. -/
theorem orPixel_run_of_visible (hq : s.Quiet) (h : s.ClipsTo v) (hvisible : s.visible x y) {o : Nat}
    (ho : o = pixelOffset s.cfg v x y) :
    (orPixel x y).run s =
      (if s.cfg.scratchSize ≤ o then raise (.scratchOverflow o)
        else scratchRead o >>= fun b => scratchWrite o (b ||| pixelMask x)).run s := by
  rw [h.visible_iff] at hvisible
  obtain ⟨hplane, hscreen, hx0, hx1, hy0, hy1, htop, hend⟩ := hvisible
  rw [orPixel, run_bind_ok (tick_run_quiet hq), run_bind_ok (run_get_ok s), h.color, h.pass, h.x0, h.x1, h.y0, h.y1,
    h.top,
    run_bind_ok (readReg_some_run _ _ _), run_bind_ok (readReg_some_run _ _ _), if_neg (not_not.2 hplane),
    run_bind_ok (readReg_some_run _ _ _), run_bind_ok (readReg_some_run _ _ _), if_neg (by omega),
    run_bind_ok (readReg_some_run _ _ _), run_bind_ok (readReg_some_run _ _ _), run_bind_ok (readReg_some_run _ _ _),
    if_neg (by omega), run_bind_ok (bias_run h), ho, pixelOffset]

/-- The scratch buffer replaced. -/
def State.withScratch (m : Memory) (s : State) : State := s.onDraw fun d => { d with scratch := m }

theorem orPixel_run_of_inked (hq : s.Quiet) (h : s.ClipsTo v) (hvisible : s.visible x y) {o : Nat}
    (ho : o = pixelOffset s.cfg v x y) (hsize : o < s.cfg.scratchSize) {b : Byte} (hb : s.draw.scratch.read o = some b) :
    (orPixel x y).run s = .ok () (s.withScratch (s.draw.scratch.write o (b ||| pixelMask x))) := by
  rw [orPixel_run_of_visible hq h hvisible ho, if_neg (Nat.not_le.2 hsize),
    run_bind_ok (a := b) (t := s) (by rw [scratchRead_run, if_neg (Nat.not_le.2 hsize), hb]), scratchWrite_run,
    if_neg (Nat.not_le.2 hsize)]
  rfl

/-! ### A sequence of pixels -/

/-- What a sequence of pixels needs: the clipping registers hold values, the planes are not packed, the chunk is written
and lies in the buffer, and the screen is no wider than a line. -/
structure State.Canvas (s : State) (v : Clip) : Prop where
  clips : s.ClipsTo v
  unpacked : s.cfg.packedPlanes = false
  filled : s.ChunkFilled
  wide : s.cfg.screenW ≤ s.cfg.bytesPerLine * 8

theorem State.Canvas.visible_iff (h : s.Canvas v) :
    s.visible x y ↔ v.color = v.pass ∧ x < s.cfg.screenW ∧ v.x0.toNat ≤ x ∧ x < v.x1.toNat ∧
      v.y0.toNat ≤ y ∧ y < v.y1.toNat ∧ v.top.toNat ≤ y ∧ y < v.top.toNat + s.cfg.linesPerChunk :=
  h.clips.visible_iff

/-- The offset of a pixel of the chunk, on a line of the screen. -/
theorem offset_lt_chunkBytes {p : Params} {top : U16} (hx : x < p.bytesPerLine * 8) (htop : top.toNat ≤ y)
    (hend : y < top.toNat + p.linesPerChunk) : x / 8 + (y - top.toNat) * p.bytesPerLine < chunkBytes p := by
  have hcol : x / 8 < p.bytesPerLine := by omega
  have hrow : y - top.toNat + 1 ≤ p.linesPerChunk := by omega
  calc x / 8 + (y - top.toNat) * p.bytesPerLine < (y - top.toNat + 1) * p.bytesPerLine := by rw [Nat.succ_mul]; omega
    _ ≤ p.linesPerChunk * p.bytesPerLine := Nat.mul_le_mul_right _ hrow
    _ = chunkBytes p := Nat.mul_comm _ _

/-- Two pixels of the chunk have one byte exactly on one line and in one byte column. -/
theorem offset_inj {p : Params} {a b c d : Nat} (ha : a < p.bytesPerLine) (hc : c < p.bytesPerLine) :
    a + b * p.bytesPerLine = c + d * p.bytesPerLine ↔ a = c ∧ b = d := by
  refine ⟨fun h => ?_, fun ⟨h, h'⟩ => by rw [h, h']⟩
  have hpos : 0 < p.bytesPerLine := by omega
  have hquot := congrArg (· / p.bytesPerLine) h
  have hrem := congrArg (· % p.bytesPerLine) h
  simp only [Nat.add_mul_div_right _ _ hpos, Nat.div_eq_of_lt ha, Nat.div_eq_of_lt hc, Nat.zero_add] at hquot
  simp only [Nat.add_mul_mod_self_right, Nat.mod_eq_of_lt ha, Nat.mod_eq_of_lt hc] at hrem
  exact ⟨hrem, hquot⟩

theorem getLsbD_or_pixelMask (b : Byte) (x x' : Nat) :
    (b ||| pixelMask x).getLsbD (7 - x' % 8) = true ↔ b.getLsbD (7 - x' % 8) = true ∨ x % 8 = x' % 8 := by
  have hmask : ∀ i j : Fin 8, (0x80#8 >>> i.val).getLsbD (7 - j.val) = true ↔ i = j := by decide
  have hbit := hmask ⟨x % 8, Nat.mod_lt _ (by omega)⟩ ⟨x' % 8, Nat.mod_lt _ (by omega)⟩
  rw [BitVec.getLsbD_or, Bool.or_eq_true, pixelMask, hbit, Fin.mk.injEq]

/-- Only the scratch buffer differs, and in it the pixels of `bits` that are visible are inked. -/
structure Inks (bits : Nat → Nat → Prop) (v : Clip) (s t : State) : Prop where
  scratch_only : ∃ m, t = s.withScratch m
  filled : t.ChunkFilled
  inked : ∀ x y, x < s.cfg.bytesPerLine * 8 → v.top.toNat ≤ y → y < v.top.toNat + s.cfg.linesPerChunk →
    ∃ old new, s.pixel x y = some old ∧ t.pixel x y = some new ∧ (new = true ↔ old = true ∨ s.visible x y ∧ bits x y)
  rest : ∀ o, chunkBytes s.cfg ≤ o → t.draw.scratch.read o = s.draw.scratch.read o

end Sys2Proof.Machine

namespace Sys2Proof

open Sys2Proof.Machine

/-- Settles O48: clipped, past the buffer, and inked. -/
theorem orPixelInksOneVisiblePixel : Obligations.OrPixelInksOneVisiblePixel := by
  intro s x y c pass x0 x1 y0 y1 top hq hc hpass hx0 hx1 hy0 hy1 htop
  have h : s.ClipsTo ⟨c, pass, x0, x1, y0, y1, top⟩ := ⟨hc, hpass, hx0, hx1, hy0, hy1, htop⟩
  refine ⟨orPixel_run_of_clipped hq h, fun hvisible o ho => ⟨fun hover => ?_, fun b hsize hb => ?_⟩⟩
  · rw [orPixel_run_of_visible hq h hvisible ho, if_pos hover, raise_run]
  · exact orPixel_run_of_inked hq h hvisible ho hsize hb

end Sys2Proof

/-! PROOF. The compositing primitives with no other agent scheduled (R96, R99, R101, R103): their pixels, put together
from what one pixel does. -/

namespace Sys2Proof.Machine

variable {α : Type} {s s₀ t u : State} {v : Clip} {x y : Nat} {bits bits' : Nat → Nat → Prop} {m k : M Unit}

/-! ### What a sequence of pixels leaves -/

/-- The clipping registers are no part of the scratch buffer and do not depend on where the host stands. -/
theorem State.ClipsTo.of_eq (h : s.ClipsTo v)
    (heq : t.draw.color = s.draw.color ∧ t.draw.passPlane = s.draw.passPlane ∧
    t.draw.winX0 = s.draw.winX0 ∧ t.draw.winX1 = s.draw.winX1 ∧ t.draw.winY0 = s.draw.winY0 ∧
    t.draw.winY1 = s.draw.winY1 ∧ t.draw.chunkStartY = s.draw.chunkStartY := by
      exact ⟨rfl, rfl, rfl, rfl, rfl, rfl, rfl⟩) :
    t.ClipsTo v := by
  obtain ⟨hcolor, hpass, hx0, hx1, hy0, hy1, htop⟩ := heq
  exact ⟨hcolor.trans h.color, hpass.trans h.pass, hx0.trans h.x0, hx1.trans h.x1, hy0.trans h.y0, hy1.trans h.y1,
    htop.trans h.top⟩

theorem State.pixel_of_byte {top : U16} {b : Byte} (htop : s.draw.chunkStartY = some top)
    (hb : s.draw.scratch.read (x / 8 + (y - top.toNat) * s.cfg.bytesPerLine) = some b) :
    s.pixel x y = some (b.getLsbD (7 - x % 8)) := by
  rw [State.pixel, htop]
  exact congrArg (Option.map _) hb

namespace Inks

theorem visible_iff (h : Inks bits v s t) : t.visible x y ↔ s.visible x y := by
  obtain ⟨m, rfl⟩ := h.scratch_only
  exact Iff.rfl

theorem cfg (h : Inks bits v s t) : t.cfg = s.cfg := by
  obtain ⟨m, rfl⟩ := h.scratch_only
  rfl

theorem canvas (h : Inks bits v s t) (hs : s.Canvas v) : t.Canvas v := by
  have hfilled := h.filled
  obtain ⟨m, rfl⟩ := h.scratch_only
  exact ⟨hs.clips.of_eq, hs.unpacked, hfilled, hs.wide⟩

/-- Where no visible pixel is set, nothing changes. -/
theorem none (hs : s.Canvas v) (hbits : ∀ x y, s.visible x y → ¬bits x y) : Inks bits v s s where
  scratch_only := ⟨_, rfl⟩
  filled := hs.filled
  inked x y hx htop hend := by
    obtain ⟨hsize, hread⟩ := hs.filled
    obtain ⟨b, hb⟩ := Option.ne_none_iff_exists'.1 (hread _ (offset_lt_chunkBytes hx htop hend))
    have hpixel := State.pixel_of_byte hs.clips.top hb
    exact ⟨_, _, hpixel, hpixel, (or_iff_left fun h => hbits x y h.1 h.2).symm⟩
  rest _ _ := rfl

theorem trans (h : Inks bits v s t) (h' : Inks bits' v t u) : Inks (fun x y => bits x y ∨ bits' x y) v s u where
  scratch_only := by
    obtain ⟨m, rfl⟩ := h.scratch_only
    obtain ⟨m', rfl⟩ := h'.scratch_only
    exact ⟨m', rfl⟩
  filled := h'.filled
  inked x y hx htop hend := by
    obtain ⟨old, mid, hold, hmid, hfirst⟩ := h.inked x y hx htop hend
    obtain ⟨mid', new, hmid', hnew, hsecond⟩ := h'.inked x y (h.cfg ▸ hx) htop (h.cfg ▸ hend)
    obtain rfl : mid = mid' := Option.some.inj (hmid.symm.trans hmid')
    refine ⟨old, new, hold, hnew, ?_⟩
    rw [hsecond, hfirst, h.visible_iff]
    tauto
  rest o ho := (h'.rest o (h.cfg ▸ ho)).trans (h.rest o ho)

theorem congr (h : Inks bits v s t) (hbits : ∀ x y, s.visible x y → (bits x y ↔ bits' x y)) : Inks bits' v s t where
  scratch_only := h.scratch_only
  filled := h.filled
  inked x y hx htop hend := by
    obtain ⟨old, new, hold, hnew, hiff⟩ := h.inked x y hx htop hend
    exact ⟨old, new, hold, hnew, hiff.trans (or_congr_right (and_congr_right (hbits x y)))⟩
  rest := h.rest

end Inks

/-- One pixel of a canvas. -/
theorem runs_orPixel (hs : s.Canvas v) (x y : Nat) :
    s.Quiet → ∃ t, Runs (orPixel x y) s (.ok () t) ∧ Inks (fun px py => px = x ∧ py = y) v s t := by
  intro hq
  by_cases hvisible : s.visible x y
  · obtain ⟨-, hscreen, -, -, -, -, htop, hend⟩ := hs.visible_iff.1 hvisible
    have hwide := hs.wide
    obtain ⟨hsize, hread⟩ := hs.filled
    have ho := offset_lt_chunkBytes (p := s.cfg) (by omega : x < s.cfg.bytesPerLine * 8) htop hend
    have hoffset : pixelOffset s.cfg v x y = x / 8 + (y - v.top.toNat) * s.cfg.bytesPerLine := by
      rw [pixelOffset, if_neg fun h => by simp [hs.unpacked] at h, Nat.add_zero]
    obtain ⟨b, hb⟩ := Option.ne_none_iff_exists'.1 (hread _ ho)
    have hrun (p : HostPos) := orPixel_run_of_inked (s := s.withHostPos p) hq hs.clips.of_eq hvisible
      hoffset.symm (by exact Nat.lt_of_lt_of_le ho hsize) (by exact hb)
    refine ⟨s.withScratch (s.draw.scratch.write (x / 8 + (y - v.top.toNat) * s.cfg.bytesPerLine) (b ||| pixelMask x)),
      .of_run id fun _ p => hrun p, ⟨_, rfl⟩, ⟨hsize, fun o' ho' => ?_⟩, fun x' y' hx' htop' hend' => ?_,
      fun o' ho' => Memory.read_write_other _ _ (by omega)⟩
    · change Memory.read (Memory.write _ _ _) o' ≠ none
      rw [Memory.read_write]
      split
      · nofun
      · exact hread o' ho'
    · obtain ⟨b', hb'⟩ := Option.ne_none_iff_exists'.1 (hread _ (offset_lt_chunkBytes hx' htop' hend'))
      have hcell := offset_inj (p := s.cfg) (a := x' / 8) (b := y' - v.top.toNat) (c := x / 8) (d := y - v.top.toNat)
        (by omega) (by omega)
      refine ⟨_, (if x' / 8 = x / 8 ∧ y' - v.top.toNat = y - v.top.toNat then b ||| pixelMask x
          else b').getLsbD (7 - x' % 8),
        State.pixel_of_byte hs.clips.top hb', State.pixel_of_byte (by exact hs.clips.top) ?_, ?_⟩
      · change Memory.read (Memory.write _ _ _) (x' / 8 + (y' - v.top.toNat) * s.cfg.bytesPerLine) = _
        rw [Memory.read_write]
        simp only [hcell]
        split
        · rfl
        · exact hb'
      · split
        · next hsame =>
          rw [hcell.2 hsame, hb] at hb'
          obtain rfl := Option.some.inj hb'
          rw [getLsbD_or_pixelMask]
          refine or_congr_right ⟨fun hbit => ?_, fun h => by rw [h.2.1]⟩
          obtain rfl : x' = x := by omega
          obtain rfl : y' = y := by omega
          exact ⟨hvisible, rfl, rfl⟩
        · next hother =>
          refine (or_iff_left fun h => hother ?_).symm
          rw [h.2.1, h.2.2]
          exact ⟨rfl, rfl⟩
  · have hrun (p : HostPos) := orPixel_run_of_clipped (s := s.withHostPos p) hq hs.clips.of_eq hvisible
    refine ⟨s, .of_run id fun _ p => hrun p, .none hs ?_⟩
    rintro x' y' hvisible' ⟨rfl, rfl⟩
    exact hvisible hvisible'

/-- The pixels inked are those of the buffer, whatever is done to the cursor and outside the draw context. -/
theorem Inks.composited (h : Inks bits v u t) {w : State} (hcfg : u.cfg = s.cfg) (htop : s.draw.chunkStartY = some v.top)
    (hsame : u.draw.chunkStartY = s.draw.chunkStartY ∧ u.draw.scratch = s.draw.scratch)
    (hw : w.draw = { t.draw with curX := w.draw.curX, curY := w.draw.curY } ∧ w.cfg = t.cfg) : Composited bits s w := by
  obtain ⟨hstart, hscratch⟩ := hsame
  obtain ⟨hdraw, hcfg'⟩ := hw
  have hfirst (x y : Nat) : u.pixel x y = s.pixel x y := by rw [State.pixel, State.pixel, hstart, hscratch, hcfg]
  have hlast (x y : Nat) : w.pixel x y = t.pixel x y := by rw [State.pixel, State.pixel, hdraw, hcfg']
  have hvisible (x y : Nat) : w.visible x y ↔ u.visible x y := by
    rw [← h.visible_iff, State.visible, State.visible, hdraw, hcfg']
  refine ⟨fun top x y htop' hx hlow hend => ?_, fun o ho => ?_⟩
  · obtain rfl : top = v.top := Option.some.inj (htop'.symm.trans htop)
    obtain ⟨old, new, hold, hnew, hiff⟩ := h.inked x y (hcfg ▸ hx) hlow (hcfg ▸ hend)
    exact ⟨old, new, (hfirst x y).symm.trans hold, (hlast x y).trans hnew, by rw [hiff, hvisible]⟩
  · rw [hdraw, ← hscratch]
    exact h.rest o (hcfg ▸ ho)

/-! ### Pieces that paint -/

/-- From every buffer of `s₀` that is a canvas, `m` goes on and inks the visible pixels of `bits`. -/
def Paints (s₀ : State) (v : Clip) (bits : Nat → Nat → Prop) (m : M Unit) : Prop :=
  ∀ s, (∃ c, s = s₀.withScratch c) → s.Canvas v → ∃ t, Runs m s (.ok () t) ∧ Inks bits v s t

namespace Paints

theorem nothing {m : M Unit} (h : ∀ s, Runs m s (.ok () s)) : Paints s₀ v (fun _ _ => False) m :=
  fun s _ hs => ⟨s, h s, .none hs fun _ _ _ => id⟩

theorem pixel (hq : s₀.Quiet) (x y : Nat) : Paints s₀ v (fun px py => px = x ∧ py = y) (orPixel x y) := by
  rintro s ⟨c, rfl⟩ hs
  exact runs_orPixel hs x y hq

theorem seq (hm : Paints s₀ v bits m) (hk : Paints s₀ v bits' k) :
    Paints s₀ v (fun x y => bits x y ∨ bits' x y) (m >>= fun _ => k) := by
  rintro s ⟨c, rfl⟩ hs
  obtain ⟨t, hrun, hinks⟩ := hm _ ⟨c, rfl⟩ hs
  obtain ⟨c', rfl⟩ := hinks.scratch_only
  obtain ⟨u, hrun', hinks'⟩ := hk _ ⟨c', rfl⟩ (hinks.canvas hs)
  exact ⟨u, hrun.seq hrun', hinks.trans hinks'⟩

theorem congr (hm : Paints s₀ v bits m) (h : ∀ x y, s₀.visible x y → (bits x y ↔ bits' x y)) : Paints s₀ v bits' m := by
  rintro s ⟨c, rfl⟩ hs
  obtain ⟨t, hrun, hinks⟩ := hm _ ⟨c, rfl⟩ hs
  exact ⟨t, hrun, hinks.congr h⟩

theorem line {op : Byte} {n : Nat} (hm : Paints s₀ v bits m) : Paints s₀ v bits (atLine op n >>= fun _ => m) :=
  ((nothing fun _ => .atLine op n).seq hm).congr fun _ _ _ => iff_of_eq (false_or _)

theorem ite {c : Prop} [Decidable c] (hm : Paints s₀ v bits m) :
    Paints s₀ v (fun x y => c ∧ bits x y) (if c then m else pure ()) := by
  by_cases hc : c
  · rw [if_pos hc]
    exact hm.congr fun _ _ _ => (and_iff_right hc).symm
  · rw [if_neg hc]
    exact (nothing fun _ => .pure ()).congr fun _ _ _ => ⟨False.elim, fun h => hc h.1⟩

theorem iteThen {c : Prop} [Decidable c] (hm : Paints s₀ v bits m) (hk : Paints s₀ v bits' k) :
    Paints s₀ v (fun x y => c ∧ bits x y ∨ bits' x y) (if c then m >>= fun _ => k else k) := by
  by_cases hc : c
  · rw [if_pos hc]
    exact (hm.seq hk).congr fun _ _ _ => or_congr_left (and_iff_right hc).symm
  · rw [if_neg hc]
    exact hk.congr fun _ _ _ => (or_iff_right fun h => hc h.1).symm

/-- What is read is no part of the buffer. -/
theorem get_bind {f : State → M Unit} (h : Paints s₀ v bits (f s₀))
    (hf : ∀ c p, f ((s₀.withScratch c).withHostPos p) = f s₀ := by exact fun _ _ => rfl) :
    Paints s₀ v bits (get >>= f) := by
  rintro s ⟨c, rfl⟩ hs
  obtain ⟨t, hrun, hinks⟩ := h _ ⟨c, rfl⟩ hs
  have hsame : f (s₀.withScratch c) = f s₀ := hf c (s₀.withScratch c).hostPos
  refine ⟨t, .get_bind (hsame ▸ hrun) fun p => ?_, hinks⟩
  rw [hf, hsame]

theorem forEach {f : α → M Unit} {bits : α → Nat → Nat → Prop} (as : List α)
    (h : ∀ a ∈ as, Paints s₀ v (bits a) (f a)) : Paints s₀ v (fun x y => ∃ a ∈ as, bits a x y) (forEach f as) := by
  induction as with
  | nil => exact (nothing fun _ => .pure ()).congr (by simp)
  | cons a as ih =>
    refine ((h a List.mem_cons_self).seq (ih fun a' ha' => h a' (List.mem_cons_of_mem _ ha'))).congr fun x y _ => ?_
    simp

theorem forLine {op : Byte} {n : Nat} {f : α → M Unit} {bits : α → Nat → Nat → Prop} (as : List α)
    (h : ∀ a ∈ as, Paints s₀ v (bits a) (f a)) :
    Paints s₀ v (fun x y => ∃ a ∈ as, bits a x y) (forLine (atLine op n) f as) :=
  ((forEach as fun a ha => (h a ha).line).seq (nothing fun _ => .atLine op n)).congr fun _ _ _ => iff_of_eq (or_false _)

theorem read {r : M α} {a : α} {f : α → M Unit} (hr : ∀ c, Runs r (s₀.withScratch c) (.ok a (s₀.withScratch c)))
    (hk : Paints s₀ v bits (f a)) : Paints s₀ v bits (r >>= f) := by
  rintro s ⟨c, rfl⟩ hs
  obtain ⟨t, hrun, hinks⟩ := hk _ ⟨c, rfl⟩ hs
  exact ⟨t, (hr c).bind hrun, hinks⟩

end Paints

end Sys2Proof.Machine

/-! PROOF. CLIENT_LOAD_RAW_BITMAP, CLIENT_WRITE_CHAR and CLIENT_PRINT_BARCODE with no other agent scheduled (R99, R101,
R103): the windows are set, the pixels are painted where the window meets the chunk, and none is visible where it does
not. -/

namespace Sys2Proof.Machine

variable {s t u : State} {v : Clip} {top : U16} {bits : Nat → Nat → Prop}

/-! ### The pixels of each primitive -/

theorem paints_glyphPixels {g : Glyph} {place : Nat → Nat → M Unit} {column line : Nat → Nat → Nat}
    (hplace : ∀ r k, Paints s v (fun px py => px = column r k ∧ py = line r k) (place r k)) :
    Paints s v (fun px py => ∃ r k, r < 16 ∧ k < 10 ∧ px = column r k ∧ py = line r k ∧
        g.getLsbD (r * 10 + k) = true)
      (glyphPixels g place) :=
  (Paints.forEach _ fun r _ => Paints.forEach _ fun k _ => (hplace r k).ite).congr fun px py _ => by
    simp only [List.mem_range, glyphBit]
    exact ⟨fun ⟨r, hr, k, hk, hbit, hx, hy⟩ => ⟨r, k, hr, hk, hx, hy, hbit⟩,
      fun ⟨r, k, hr, hk, hx, hy, hbit⟩ => ⟨r, hr, k, hk, hbit, hx, hy⟩⟩

theorem paints_barcodeColumns (hq : s.Quiet) (x y height : Nat) (bars : List Bool) :
    Paints s v (fun px py => ∃ j r, r < height ∧ px = x + j ∧ py = y + r ∧ bars[j]? = some true)
      (barcodeColumns x y height bars) := by
  induction bars generalizing x with
  | nil => exact (Paints.nothing fun _ => .atLine _ _).congr (by simp)
  | cons bar bars ih =>
    have hcolumn := Paints.forEach (s₀ := s) (v := v) (List.range height) fun r _ => Paints.pixel hq x (y + r)
    refine ((hcolumn.iteThen (c := bar = true)) (ih (x + 1))).line.line.congr fun px py _ => ?_
    simp only [List.mem_range]
    constructor
    · rintro (⟨hbar, r, hr, rfl, rfl⟩ | ⟨j, r, hr, rfl, rfl, hj⟩)
      · exact ⟨0, r, hr, rfl, rfl, by simp [hbar]⟩
      · exact ⟨j + 1, r, hr, by omega, rfl, by simpa using hj⟩
    · rintro ⟨_ | j, r, hr, rfl, rfl, hj⟩
      · exact .inl ⟨by simpa using hj, r, hr, rfl, rfl⟩
      · exact .inr ⟨j, r, hr, by omega, rfl, by simpa using hj⟩

/-- The bits of a bitmap's rows at column `x` and line `y` (R99). -/
def bitmapBits (x y w h : Nat) (rows : List Byte) (px py : Nat) : Prop :=
  ∃ r k b, r < h ∧ k < w ∧ px = x + k ∧ py = y + r ∧ rows[r * ((w + 7) / 8) + k / 8]? = some b ∧
    b.getLsbD (7 - k % 8) = true

theorem paints_bitmapRows {a x y w h : Nat} {head rows : List Byte} (hq : s.Quiet)
    (hhold : s.HostHolds a (head ++ rows)) (hhead : head.length = 9) (hrows : rows.length = h * ((w + 7) / 8))
    (htop : s.draw.chunkStartY = some top) : Paints s v (bitmapBits x y w h rows) (bitmapRows a x y w h) := by
  have hbyte {r k : Nat} (hr : r < h) (hk : k < w) : ∃ b, rows[r * ((w + 7) / 8) + k / 8]? = some b := by
    refine ⟨_, List.getElem?_eq_getElem ?_⟩
    have hcol : k / 8 < (w + 7) / 8 := by omega
    calc r * ((w + 7) / 8) + k / 8 < (r + 1) * ((w + 7) / 8) := by rw [Nat.succ_mul]; omega
      _ ≤ h * ((w + 7) / 8) := Nat.mul_le_mul_right _ hr
      _ = rows.length := hrows.symm
  have hpixel {r k : Nat} (hr : r < h) (hk : k < w) : Paints s v
      (fun px py => px = x + k ∧ py = y + r ∧
        ∃ b, rows[r * ((w + 7) / 8) + k / 8]? = some b ∧ b.getLsbD (7 - k % 8) = true)
      (bitmapPixel a x y ((w + 7) / 8) r k) := by
    obtain ⟨b, hb⟩ := hbyte hr hk
    have hread (c : Memory) : Runs (hostRead (a + 9 + r * ((w + 7) / 8) + k / 8)) (s.withScratch c)
        (.ok b (s.withScratch c)) := by
      rw [Nat.add_assoc, Nat.add_assoc a 9]
      refine runs_hostRead_of_holds (by exact hhold) ?_
      rwa [List.getElem?_append_right (by omega), hhead, Nat.add_sub_cancel_left]
    refine (Paints.read hread (Paints.pixel hq (x + k) (y + r)).ite).line.congr fun px py _ => ?_
    rw [hb, rowBit]
    exact ⟨fun ⟨hbit, hx, hy⟩ => ⟨hx, hy, b, rfl, hbit⟩,
      fun ⟨hx, hy, b', hb', hbit⟩ => ⟨Option.some.inj hb' ▸ hbit, hx, hy⟩⟩
  have hrow {r : Nat} (hr : r < h) := Paints.forLine (op := 0x24#8) (n := 10) (List.range w) fun k hk =>
    hpixel hr (List.mem_range.1 hk)
  refine (Paints.get_bind ?_).line
  rw [htop]
  refine (Paints.read (fun _ => .pure top) (Paints.forLine _ fun r hr => hrow ?_)).congr fun px py hvisible => ?_
  · exact List.mem_range.1 (List.mem_of_mem_filter hr)
  · obtain ⟨-, -, -, -, -, -, top', -, -, -, -, htop', -, -, -, -, hlow, hend⟩ := hvisible
    obtain rfl : top = top' := Option.some.inj (htop.symm.trans htop')
    simp only [rowsInChunk, List.mem_filter, List.mem_range, decide_eq_true_eq]
    constructor
    · rintro ⟨r, ⟨hr, -⟩, k, hk, hx, hy, b, hb, hbit⟩
      exact ⟨r, k, b, hr, hk, hx, hy, hb, hbit⟩
    · rintro ⟨r, k, b, hr, hk, hx, rfl, hb, hbit⟩
      exact ⟨r, ⟨hr, hlow, hend⟩, k, hk, hx, rfl, b, hb, hbit⟩

/-! ### The commands -/

/-- A window that misses the chunk shows no line of it (R98). -/
theorem not_visible_of_outside {start height : Nat} (hout : windowOutside s.cfg start height top.toNat = true)
    (htop : s.draw.chunkStartY = some top) {px py : Nat} (hlow : start ≤ py) (hhigh : py < start + height) :
    ¬s.visible px py := by
  rintro ⟨-, -, -, -, -, -, top', -, -, -, -, htop', -, -, -, -, hfirst, hlast⟩
  obtain rfl : top = top' := Option.some.inj (htop.symm.trans htop')
  rw [windowOutside, decide_eq_true_eq] at hout
  omega

/-- Pixels painted where the window meets the chunk; where it does not, none of them is visible. -/
theorem exists_inks_of_window {out : Bool} {m : M Unit} (hq : Paints u v bits m) (hu : u.Canvas v)
    (hnone : out = true → ∀ x y, bits x y → ¬u.visible x y) :
    ∃ t, Inks bits v u t ∧ (out = true → t = u) ∧ (out = false → Runs m u (.ok () t)) := by
  cases out with
  | true => exact ⟨u, .none hu fun x y hvisible hbits => hnone rfl x y hbits hvisible, fun _ => rfl, nofun⟩
  | false =>
    obtain ⟨t, hrun, hinks⟩ := hq u ⟨_, rfl⟩ hu
    exact ⟨t, hinks, nofun, fun _ => hrun⟩

section Bitmap

variable {a : U16} {xl xh yl yh col wl wh hl hh : Byte} (hdraw : s.draw.drawing = true)
include hdraw

theorem runs_clientLoadRawBitmap_of_reserved (hhold : s.HostHolds a.toNat [xl, xh, yl, yh, col, wl, wh, hl, hh])
    (hcol : planeOfByte col = none) :
    Runs (clientLoadRawBitmap a) s (.error (.refuse (.reservedOperand (encode (.clientLoadRawBitmap a)))) s) := by
  refine .inDraw hdraw <| .line <| (runs_hostU16 (i := 0) hhold rfl rfl).bind <| (runs_hostU16 hhold rfl rfl).bind <|
    (runs_hostRead_of_holds hhold rfl).bind <| (runs_hostU16 hhold rfl rfl).bind <| (runs_hostU16 hhold rfl rfl).bind <|
    .line ?_
  rw [hcol]
  exact .refuse _

theorem runs_clientLoadRawBitmap {rows : List Byte} {c pass : Plane} {x y w h : Nat} (hq : s.Quiet)
    (hpacked : s.cfg.packedPlanes = false) (hfilled : s.ChunkFilled) (hwide : s.cfg.screenW ≤ s.cfg.bytesPerLine * 8)
    (htop : s.draw.chunkStartY = some top) (hpass : s.draw.passPlane = some pass)
    (hhold : s.HostHolds a.toNat ([xl, xh, yl, yh, col, wl, wh, hl, hh] ++ rows))
    (hx : x = xl.toNat + 256 * xh.toNat) (hy : y = yl.toNat + 256 * yh.toNat) (hw : w = wl.toNat + 256 * wh.toNat)
    (hh' : h = hl.toNat + 256 * hh.toNat) (hrows : rows.length = h * ((w + 7) / 8)) (hcol : planeOfByte col = some c)
    {set : State} (hset : set = State.windowYSet y h top (toU16 x)
      (State.windowXSet x w { s with draw := { s.draw with color := some c } })) :
    ∃ t v, v.top = top ∧ Runs (clientLoadRawBitmap a) s (.ok .ok t) ∧ Inks (bitmapBits x y w h rows) v set t := by
  have hcanvas : set.Canvas ⟨c, pass, toU16 x, toU16 (x + w), toU16 y, toU16 (y + h), top⟩ := by
    subst hset
    exact ⟨⟨rfl, hpass, rfl, rfl, rfl, rfl, htop⟩, hpacked, hfilled, hwide⟩
  have hpaints : Paints set ⟨c, pass, toU16 x, toU16 (x + w), toU16 y, toU16 (y + h), top⟩ (bitmapBits x y w h rows)
      (bitmapRows a.toNat x y w h) := by
    subst hset
    exact paints_bitmapRows (by exact hq) (by exact hhold) rfl hrows (by exact htop)
  obtain ⟨t, hinks, hmiss, hmeet⟩ := exists_inks_of_window (out := windowOutside s.cfg y h top.toNat) hpaints hcanvas (by
    subst hset
    rintro hout px py ⟨r, k, b, hr, -, -, rfl, -⟩
    exact not_visible_of_outside (by exact hout) (by exact htop) (by omega) (by omega))
  refine ⟨t, _, rfl, ?_, hinks⟩
  refine .inDraw hdraw <| .line <| (runs_hostU16 (i := 0) hhold rfl rfl).bind <| (runs_hostU16 hhold rfl rfl).bind <|
    (runs_hostRead_of_holds hhold rfl).bind <| (runs_hostU16 hhold rfl rfl).bind <| (runs_hostU16 hhold rfl rfl).bind <|
    .line ?_
  rw [hcol, ← hx, ← hy, ← hw, ← hh']
  refine .line <| .update <| .line <| .update <| .update <| .line <|
    (runs_setWindowY (fun _ _ => .tick) y h (by exact htop) rfl (by exact hpacked)).bind <| .line ?_
  subst hset
  by_cases hout : windowOutside s.cfg y h top.toNat = true
  · rw [hmiss hout]
    exact .ite_pos (by exact hout) <| .pure _
  · exact .ite_neg (by exact hout) <| (hmeet (by simpa using hout)).seq <| .line <| .pure _

end Bitmap

theorem runs_clientPrintBarcode {a : U16} {xl xh yl yh n : Byte} {str : List Byte} {bars : List Bool} {x y : Nat}
    {pass : Plane} (hdraw : s.draw.drawing = true) (hq : s.Quiet) (hpacked : s.cfg.packedPlanes = false)
    (hfilled : s.ChunkFilled) (hwide : s.cfg.screenW ≤ s.cfg.bytesPerLine * 8) (htop : s.draw.chunkStartY = some top)
    (hpass : s.draw.passPlane = some pass) (hhold : s.HostHolds a.toNat ([xl, xh, yl, yh, n] ++ str))
    (hstr : str.length = n.toNat) (hx : x = xl.toNat + 256 * xh.toNat) (hy : y = yl.toNat + 256 * yh.toNat)
    (hbars : bars = barcodeBars s.cfg str) {set : State}
    (hset : set = State.windowYSet y s.cfg.barcodeHeight top (toU16 x)
      (State.windowXSet x bars.length { s with draw := { s.draw with color := some .mono } })) :
    ∃ t v, v.top = top ∧ Runs (clientPrintBarcode a) s (.ok .ok t) ∧
      Inks (fun px py => ∃ j r, r < s.cfg.barcodeHeight ∧ px = x + j ∧ py = y + r ∧ bars[j]? = some true) v set t := by
  have hcanvas : set.Canvas ⟨.mono, pass, toU16 x, toU16 (x + bars.length), toU16 y, toU16 (y + s.cfg.barcodeHeight),
      top⟩ := by
    subst hset
    exact ⟨⟨rfl, hpass, rfl, rfl, rfl, rfl, htop⟩, hpacked, hfilled, hwide⟩
  have hpaints := paints_barcodeColumns (s := set) (v := ⟨.mono, pass, toU16 x, toU16 (x + bars.length), toU16 y,
    toU16 (y + s.cfg.barcodeHeight), top⟩) (by subst hset; exact hq) x y s.cfg.barcodeHeight bars
  obtain ⟨t, hinks, hmiss, hmeet⟩ := exists_inks_of_window
    (out := windowOutside s.cfg y s.cfg.barcodeHeight top.toNat) hpaints hcanvas (by
      subst hset
      rintro hout px py ⟨j, r, hr, -, rfl, -⟩
      exact not_visible_of_outside (by exact hout) (by exact htop) (by omega) (by omega))
  have htail : s.HostHolds (a.toNat + 5) str := hhold.tail.tail.tail.tail.tail
  have hread : Runs (hostReadBytes (a.toNat + 5) n.toNat) s (.ok str s) := hstr ▸ runs_hostReadBytes htail
  refine ⟨t, _, rfl, ?_, hinks⟩
  refine .inDraw hdraw <| .line <| .get_bind <| (runs_hostU16 (i := 0) hhold rfl rfl).bind <|
    (runs_hostU16 hhold rfl rfl).bind <| (runs_hostRead_of_holds hhold rfl).bind <| hread.bind <| .line ?_
  rw [← hx, ← hy, ← hbars]
  refine .line <| .update <| .line <| .update <| .update <| .line <|
    (runs_setWindowY (fun _ _ => .tick) y _ (by exact htop) rfl (by exact hpacked)).bind <| .line ?_
  subst hset
  by_cases hout : windowOutside s.cfg y s.cfg.barcodeHeight top.toNat = true
  · rw [hmiss hout]
    exact .ite_pos (by exact hout) <| .pure _
  · exact .ite_neg (by exact hout) <| (hmeet (by simpa using hout)).seq <| .line <| .pure _

theorem toU16_add (x : U16) (n : Nat) : toU16 (x.toNat + n) = x + BitVec.ofNat 16 n :=
  BitVec.eq_of_toNat_eq (by simp [toU16])

theorem toU16_self (x : U16) : toU16 x.toNat = x := BitVec.eq_of_toNat_eq (by simp [toU16])

/-- The window of a glyph is set, its pixels are painted where the window meets the chunk, and the cursor moves (R101). -/
theorem runs_writeGlyph {n1 n2 n3 n4 : Nat} {x y w h : Nat} {xreg : U16} {m : M Unit} {f : Draw → Draw} {set : State}
    (htop : s.draw.chunkStartY = some top) (hx : s.draw.curX = some xreg) (hpacked : s.cfg.packedPlanes = false)
    (hset : set = State.windowYSet y h top xreg (s.onDraw fun d =>
      { d with winX0 := some (toU16 x), winX1 := some (toU16 (x + w)) }))
    (hcanvas : set.Canvas v) (hpaints : Paints set v bits m) (hbits : ∀ px py, bits px py → y ≤ py ∧ py < y + h) :
    ∃ t, Inks bits v set t ∧ Runs (do
      atLine 0x26#8 n1
      setWinX x w
      let out ← setWindowY (fun _ => tick) y h
      atLine 0x26#8 n2
      if out = false then do
        atLine 0x26#8 n3
        m
      else pure ()
      atLine 0x26#8 n4
      setDraw f) s (.ok () (t.onDraw f)) := by
  obtain ⟨t, hinks, hmiss, hmeet⟩ := exists_inks_of_window (out := windowOutside s.cfg y h top.toNat) hpaints hcanvas (by
    subst hset
    intro hout px py hpx
    exact not_visible_of_outside (by exact hout) (by exact htop) (hbits px py hpx).1 (hbits px py hpx).2)
  refine ⟨t, hinks, .line <| .update <|
    (runs_setWindowY (fun _ _ => .tick) y h (by exact htop) (by exact hx) (by exact hpacked)).bind <| .line ?_⟩
  subst hset
  by_cases hout : windowOutside s.cfg y h top.toNat = true
  · rw [hmiss hout]
    exact .ite_neg (by simpa using hout) <| .line <| .write
  · exact .ite_pos (by simpa using hout) <| .line <| (hmeet (by simpa using hout)).seq <| .line <| .write

section WriteChar

variable {ch size : Byte} {x y : U16} {c pass : Plane} (hdraw : s.draw.drawing = true) (hprint : s.draw.printing = true)
  (hq : s.Quiet) (hpacked : s.cfg.packedPlanes = false) (hfilled : s.ChunkFilled)
  (hwide : s.cfg.screenW ≤ s.cfg.bytesPerLine * 8) (htop : s.draw.chunkStartY = some top)
  (hpass : s.draw.passPlane = some pass) (hcolor : s.draw.color = some c) (hsize : s.draw.fontSize = some size)
  (hx : s.draw.curX = some x) (hy : s.draw.curY = some y)
include hdraw hprint hq hpacked hfilled hwide htop hpass hcolor hsize hx hy

theorem runs_clientWriteChar_upright (hdir : s.draw.direction = some .horizontal) {set : State}
    (hset : set = State.windowYSet y.toNat 16 top x
      { s with draw := { s.draw with winX0 := some x, winX1 := some (x + 10#16) } }) :
    ∃ t v, v.top = top ∧
      Runs (clientWriteChar ch) s (.ok .ok (t.onDraw fun d => { d with curX := some (x + 10#16) })) ∧
      Inks (fun px py => ∃ r k, r < 16 ∧ k < 10 ∧ px = x.toNat + k ∧ py = y.toNat + r ∧
        (glyph s.cfg size ch).getLsbD (r * 10 + k) = true) v set t := by
  have hcanvas : set.Canvas ⟨c, pass, x, x + 10#16, toU16 y.toNat, toU16 (y.toNat + 16), top⟩ := by
    subst hset
    exact ⟨⟨hcolor, hpass, rfl, rfl, rfl, rfl, htop⟩, hpacked, hfilled, hwide⟩
  have hq' : set.Quiet := by subst hset; exact hq
  have hpaints : Paints set ⟨c, pass, x, x + 10#16, toU16 y.toNat, toU16 (y.toNat + 16), top⟩ _
      (glyphPixels (glyph s.cfg size ch) fun r k => orPixel (x.toNat + k) (y.toNat + r)) :=
    paints_glyphPixels fun r k => .pixel hq' (x.toNat + k) (y.toNat + r)
  obtain ⟨t, hinks, hrun⟩ := runs_writeGlyph (n1 := 5) (n2 := 6) (n3 := 7) (n4 := 8) (x := x.toNat) (w := 10)
    (y := y.toNat) (h := 16) (f := fun d => { d with curX := some (toU16 (x.toNat + 10)) }) htop hx hpacked
    (by rw [toU16_add, toU16_self]; exact hset) hcanvas hpaints
    (by rintro px py ⟨r, k, hr, -, -, rfl, -⟩; omega)
  rw [toU16_add] at hrun
  refine ⟨t, _, rfl, .inDraw hdraw <| .line <| .get_bind <| .ite_neg (by simp [hprint]) <| .line <| .readReg hsize <|
    .readReg hdir <| .readReg hx <| .readReg hy <| .line <| hrun.seq <| .line <| .pure _, hinks⟩

theorem runs_clientWriteChar_turned (hdir : s.draw.direction = some .vertical) {set : State}
    (hset : set = State.windowYSet y.toNat 10 top x
      { s with draw := { s.draw with winX0 := some x, winX1 := some (x + 16#16) } }) :
    ∃ t v, v.top = top ∧
      Runs (clientWriteChar ch) s (.ok .ok (t.onDraw fun d => { d with curY := some (y + 10#16) })) ∧
      Inks (fun px py => ∃ r k, r < 16 ∧ k < 10 ∧ px = x.toNat + 15 - r ∧ py = y.toNat + k ∧
        (glyph s.cfg size ch).getLsbD (r * 10 + k) = true) v set t := by
  have hcanvas : set.Canvas ⟨c, pass, x, x + 16#16, toU16 y.toNat, toU16 (y.toNat + 10), top⟩ := by
    subst hset
    exact ⟨⟨hcolor, hpass, rfl, rfl, rfl, rfl, htop⟩, hpacked, hfilled, hwide⟩
  have hq' : set.Quiet := by subst hset; exact hq
  have hpaints : Paints set ⟨c, pass, x, x + 16#16, toU16 y.toNat, toU16 (y.toNat + 10), top⟩ _
      (glyphPixels (glyph s.cfg size ch) fun r k => orPixel (x.toNat + 15 - r) (y.toNat + k)) :=
    paints_glyphPixels fun r k => .pixel hq' (x.toNat + 15 - r) (y.toNat + k)
  obtain ⟨t, hinks, hrun⟩ := runs_writeGlyph (n1 := 10) (n2 := 11) (n3 := 12) (n4 := 13) (x := x.toNat) (w := 16)
    (y := y.toNat) (h := 10) (f := fun d => { d with curY := some (toU16 (y.toNat + 10)) }) htop hx hpacked
    (by rw [toU16_add, toU16_self]; exact hset) hcanvas hpaints
    (by rintro px py ⟨r, k, -, hk, -, rfl, -⟩; omega)
  rw [toU16_add] at hrun
  refine ⟨t, _, rfl, .inDraw hdraw <| .line <| .get_bind <| .ite_neg (by simp [hprint]) <| .line <| .readReg hsize <|
    .readReg hdir <| .readReg hx <| .readReg hy <| .line <| hrun.seq <| .line <| .pure _, hinks⟩

end WriteChar

theorem runs_clientWriteChar_of_closed (hdraw : s.draw.drawing = true) (hprint : s.draw.printing = false) (ch : Byte) :
    Runs (clientWriteChar ch) s (.error (.refuse .notPrinting) s) :=
  .inDraw hdraw <| .line <| .get_bind <| .ite_pos hprint <| .refuse _

end Sys2Proof.Machine

namespace Sys2Proof

open Sys2Proof.Machine

/-- Settles O43: a colour byte without a meaning is refused, and else the bitmap's rows are painted. -/
theorem loadRawBitmapInksItsBits : Obligations.LoadRawBitmapInksItsBits := by
  refine ⟨fun s a xl xh yl yh col wl wh hl hh hq hdraw hhold hcol => ?_, ?_⟩
  · exact Runs.exec (i := .clientLoadRawBitmap a)
      (runs_clientLoadRawBitmap_of_reserved hdraw hhold (planeOfByte_of_lt hcol)) hq
  · intro s a xl xh yl yh col wl wh hl hh rows c x y w h top pass hq hdraw hpacked hfilled hwide htop hpass hhold hx hy hw
      hh' hrows hcol
    have hcol : planeOfByte col = some c := by rcases hcol with ⟨rfl, rfl⟩ | ⟨rfl, rfl⟩ <;> rfl
    obtain ⟨t, v, rfl, hrun, hinks⟩ := runs_clientLoadRawBitmap hdraw hq hpacked hfilled hwide htop hpass hhold hx hy hw
      hh' hrows hcol rfl
    obtain ⟨m, rfl⟩ := hinks.scratch_only
    exact ⟨_, Runs.exec (i := .clientLoadRawBitmap a) hrun hq,
      hinks.composited rfl htop ⟨rfl, rfl⟩ ⟨rfl, rfl⟩, m, rfl⟩

/-- Settles O45: a closed run is refused; an open one paints the glyph upright or turned. -/
theorem writeCharInksTheGlyph : Obligations.WriteCharInksTheGlyph := by
  intro s ch hq hdraw
  refine ⟨fun hprint => Runs.exec (i := .clientWriteChar ch) (runs_clientWriteChar_of_closed hdraw hprint ch) hq,
    fun size x y top c pass hprint hpacked hfilled hwide htop hpass hcolor hsize hx hy =>
      ⟨fun hdir => ?_, fun hdir => ?_⟩⟩
  · obtain ⟨t, v, rfl, hrun, hinks⟩ := runs_clientWriteChar_upright (ch := ch) hdraw hprint hq hpacked hfilled hwide htop
      hpass hcolor hsize hx hy hdir rfl
    obtain ⟨m, rfl⟩ := hinks.scratch_only
    exact ⟨_, Runs.exec (i := .clientWriteChar ch) hrun hq, hinks.composited rfl htop ⟨rfl, rfl⟩ ⟨rfl, rfl⟩, m, rfl⟩
  · obtain ⟨t, v, rfl, hrun, hinks⟩ := runs_clientWriteChar_turned (ch := ch) hdraw hprint hq hpacked hfilled hwide htop
      hpass hcolor hsize hx hy hdir rfl
    obtain ⟨m, rfl⟩ := hinks.scratch_only
    exact ⟨_, Runs.exec (i := .clientWriteChar ch) hrun hq, hinks.composited rfl htop ⟨rfl, rfl⟩ ⟨rfl, rfl⟩, m, rfl⟩

/-- Settles O47: the module columns are painted. -/
theorem printBarcodeInksItsModules : Obligations.PrintBarcodeInksItsModules := by
  intro s a xl xh yl yh n str bars x y top pass hq hdraw hpacked hfilled hwide htop hpass hhold hstr hx hy hbars
  obtain ⟨t, v, rfl, hrun, hinks⟩ := runs_clientPrintBarcode hdraw hq hpacked hfilled hwide htop hpass hhold hstr hx hy
    hbars rfl
  obtain ⟨m, rfl⟩ := hinks.scratch_only
  exact ⟨_, Runs.exec (i := .clientPrintBarcode a) hrun hq, hinks.composited rfl htop ⟨rfl, rfl⟩ ⟨rfl, rfl⟩, m, rfl⟩

end Sys2Proof

/-! PROOF. A whole draw's chunks with no other agent scheduled (R92, R93, R94, R95): streaming a chunk, loading or zeroing
it, and the passes of an image up to its refresh. -/

namespace Sys2Proof.Machine

variable {α : Type} {s t u : State} {p : Plane} {plane : Plane}

/-! ### What streaming leaves alone -/

/-- Between the two states only the display engine, the trace and the status differ. -/
def EngineOnly (s t : State) : Prop :=
  t = { s with epd := t.epd, res := { s.res with status := t.res.status }, trace := t.trace }

namespace EngineOnly

theorem refl (s : State) : EngineOnly s s := rfl

theorem trans (h : EngineOnly s t) (h' : EngineOnly t u) : EngineOnly s u := by
  unfold EngineOnly at *
  rw [h', h]

theorem foldl {g : State → α → State} (h : ∀ u a, EngineOnly u (g u a)) (as : List α) (s : State) :
    EngineOnly s (as.foldl g s) := by
  induction as generalizing s with
  | nil => exact refl s
  | cons a as ih => exact (h s a).trans (ih _)

theorem cfg (h : EngineOnly s t) : t.cfg = s.cfg := by unfold EngineOnly at h; rw [h]
theorem env (h : EngineOnly s t) : t.env = s.env := by unfold EngineOnly at h; rw [h]
theorem draw (h : EngineOnly s t) : t.draw = s.draw := by unfold EngineOnly at h; rw [h]

theorem hostPos (h : EngineOnly s t) : t.hostPos = s.hostPos := by unfold EngineOnly at h; rw [h]

theorem nestedReturn (h : EngineOnly s t) (op : Byte) (st : Status) : EngineOnly s (t.nestedReturn op st) := h.trans rfl

end EngineOnly

theorem PanelOnly.engineOnly (h : PanelOnly s t) : EngineOnly s t := by
  unfold PanelOnly at h
  unfold EngineOnly
  rw [h]

/-- One byte streamed by a command of its own (R91, R93). -/
def State.byteSent (b : Byte) (s : State) : State := (s.byteStreamed b).nestedReturn 0x14#8 .ok

/-- Bytes streamed one after the other (R93). -/
def State.bytesSent (bs : List Byte) (s : State) : State := bs.foldl (fun t b => t.byteSent b) s

theorem State.bytesSent_append (bs cs : List Byte) : s.bytesSent (bs ++ cs) = (s.bytesSent bs).bytesSent cs :=
  List.foldl_append

theorem EngineOnly.bytesSent (s : State) (bs : List Byte) : EngineOnly s (s.bytesSent bs) :=
  foldl (fun u b => (PanelOnly.byteStreamed u b).engineOnly.nestedReturn _ _) bs s

/-! ### A draw under way -/

/-- The panel is powered, its bus can take a byte, the pass's plane is `p`, and the chunk lies in the buffer. -/
structure State.Drawing (s : State) (p : Plane) : Prop where
  quiet : s.Quiet
  connected : s.epd.spiConnected = true
  ready : s.ShifterReady
  powered : s.epd.epdPowered = true
  plane : s.draw.passPlane = some p
  fits : chunkBytes s.cfg ≤ s.cfg.scratchSize

namespace State.Drawing

theorem of_eq (h : s.Drawing p) (hepd : t.epd = s.epd) (hcfg : t.cfg = s.cfg) (henv : t.env = s.env)
    (hplane : t.draw.passPlane = s.draw.passPlane) : t.Drawing p where
  quiet := (congrArg Env.sched henv).trans h.quiet
  connected := by rw [hepd]; exact h.connected
  ready := by rw [State.ShifterReady, hepd]; exact h.ready
  powered := by rw [hepd]; exact h.powered
  plane := hplane.trans h.plane
  fits := by rw [hcfg]; exact h.fits

theorem busReady (h : s.Drawing p) (ht : TablesOk s.cfg) : s.BusReady := ⟨h.quiet, h.connected, h.ready, ht⟩

theorem byteSent (h : s.Drawing p) (b : Byte) : (s.byteSent b).Drawing p := by
  have honly := PanelOnly.byteStreamed s b
  have hhanded : (s.byteStreamed b).Drawing p :=
    ⟨(congrArg Env.sched honly.env).trans h.quiet,
      (State.byteHanded_spiConnected (streamRoute s.cfg s.epd.streamIdx) .data b).trans h.connected,

      State.byteHanded_ready h.connected (streamRoute s.cfg s.epd.streamIdx) .data b,
      (State.byteHanded_epdPowered (streamRoute s.cfg s.epd.streamIdx) .data b).trans h.powered,
      (congrArg Draw.passPlane honly.draw).trans h.plane, by rw [honly.cfg]; exact h.fits⟩
  exact hhanded.of_eq rfl rfl rfl rfl

theorem bytesSent (h : s.Drawing p) (bs : List Byte) : (s.bytesSent bs).Drawing p := by
  induction bs generalizing s with
  | nil => exact h
  | cons b bs ih => exact ih (h.byteSent b)

end State.Drawing

/-! ### Streaming -/

/-- A nested command that ends leaves the host where it stood (R91). -/
theorem Runs.issue_run {op : Byte} {body : M Status} {st : Status} (h : Runs body s (.ok st t)) (hq : s.Quiet)
    (q : HostPos) : (Machine.issue op body).run (s.withHostPos q) = .ok () ((t.nestedReturn op st).withHostPos q) := by
  obtain ⟨-, hrun⟩ := h hq
  obtain ⟨q', hq'⟩ := hrun (.line op 1)
  exact issue_run_ok (s := s.withHostPos q) (t := t.withHostPos q') hq'

/-- An EPD_SEND_BYTE that the draw issues leaves the host where it stands (R91). -/
theorem issue_sendByte_run (h : s.Drawing p) (b : Byte) (q : HostPos) :
    (issue 0x14#8 (epdSendByte b)).run (s.withHostPos q) = .ok () ((s.byteSent b).withHostPos q) :=
  (runs_epdSendByte h.ready h.powered b).issue_run h.quiet q

theorem issue_sendBytes_run (h : s.Drawing p) (bs : List Byte) (q : HostPos) :
    (forEach (fun b => issue 0x14#8 (epdSendByte b)) bs).run (s.withHostPos q) =
      .ok () ((s.bytesSent bs).withHostPos q) := by
  induction bs generalizing s with
  | nil => rfl
  | cons b bs ih =>
    rw [forEach_cons_run, run_bind_ok (issue_sendByte_run h b q), ih (h.byteSent b)]
    rfl

theorem streamByte_run (h : s.Drawing p) {i : Nat} {b : Byte} (hi : i < s.cfg.scratchSize)
    (hb : s.draw.scratch.read i = some b) (q : HostPos) :
    (streamByte i).run (s.withHostPos q) = .ok () ((s.bytesSent (repack s.cfg p b)).withHostPos q) := by
  have hread : (scratchRead i).run (s.withHostPos q) = .ok b (s.withHostPos q) := by
    rw [scratchRead_run, if_neg (by exact Nat.not_le.2 hi), State.withHostPos_draw, hb]
  rw [streamByte, run_bind_ok (tick_run_quiet (by exact h.quiet)), run_bind_ok (run_get_ok _), State.withHostPos_draw,
    h.plane, run_bind_ok (readReg_some_run _ _ _), run_bind_ok hread]
  exact issue_sendBytes_run h _ q

/-- The bytes of the cells `is`, in order. -/
theorem streamBytes_run (h : s.Drawing p) {is : List Nat} {bytes : List Byte} (his : ∀ i ∈ is, i < s.cfg.scratchSize)
    (hread : is.map s.draw.scratch.read = bytes.map some) (q : HostPos) :
    (forEach streamByte is).run (s.withHostPos q) =
      .ok () ((s.bytesSent (bytes.flatMap (repack s.cfg p))).withHostPos q) := by
  induction is generalizing s bytes with
  | nil =>
    obtain rfl : bytes = [] := by simpa using hread.symm
    rfl
  | cons i is ih =>
    obtain ⟨b, bytes, rfl⟩ := List.exists_cons_of_ne_nil (show bytes ≠ [] by rintro rfl; simp at hread)
    obtain ⟨hb, hread⟩ := List.cons.inj hread
    have honly := EngineOnly.bytesSent s (repack s.cfg p b)
    rw [forEach_cons_run, run_bind_ok (streamByte_run h (his i List.mem_cons_self) hb q),
      ih (h.bytesSent _) (fun j hj => by rw [honly.cfg]; exact his j (List.mem_cons_of_mem _ hj))
        (by rw [honly.draw]; exact hread), honly.cfg, List.flatMap_cons, State.bytesSent_append]

theorem streamChunk_run (h : s.Drawing p) {bytes : List Byte}
    (hread : (List.range (chunkBytes s.cfg)).map s.draw.scratch.read = bytes.map some) (q : HostPos) :
    streamChunk.run (s.withHostPos q) =
      .ok () ((s.bytesSent (bytes.flatMap (repack s.cfg p))).withHostPos q) := by
  rw [streamChunk, run_bind_ok (run_get_ok _)]
  exact streamBytes_run h (fun i hi => Nat.lt_of_lt_of_le (List.mem_range.1 hi) h.fits) hread q

end Sys2Proof.Machine

namespace Sys2Proof

open Sys2Proof.Machine

/-- Settles O49: byte by byte, each byte's repacked bytes by commands of their own. -/
theorem streamChunkSendsRepackedBytes : Obligations.StreamChunkSendsRepackedBytes := by
  intro s plane bytes hq hp hc hr hplane hfits hlen hread
  have hcells : (List.range (chunkBytes s.cfg)).map s.draw.scratch.read = bytes.map some := by
    refine List.ext_getElem (by simp [hlen]) fun i hi hi' => ?_
    rw [List.getElem_map, List.getElem_map, List.getElem_range, hread i (by simpa using hi'), List.getElem?_eq_getElem]
  have hpos := (EngineOnly.bytesSent s (bytes.flatMap (repack s.cfg plane))).hostPos
  refine (streamChunk_run ⟨hq, hc, hr, hp, hplane, hfits⟩ hcells s.hostPos).trans (congrArg (EStateM.Result.ok ()) ?_)
  rw [← hpos]
  rfl

end Sys2Proof

/-! PROOF. CLIENT_DRAW_IMAGE with no other agent scheduled: its chunks, passes and ends, of a live panel and of one that
is not, and from a hold (R87, R89, R92 to R94, R114). -/

namespace Sys2Proof.Machine

variable {s t u : State} {p : Plane} {two : Bool}

/-! ### What a draw leaves alone -/

/-- Between the two states only the display engine, the draw context, the results and the trace differ. -/
def DrawOnly (s t : State) : Prop := t = { s with epd := t.epd, draw := t.draw, res := t.res, trace := t.trace }

namespace DrawOnly

theorem refl (s : State) : DrawOnly s s := rfl

theorem trans (h : DrawOnly s t) (h' : DrawOnly t u) : DrawOnly s u := by
  unfold DrawOnly at *
  rw [h', h]

theorem foldl {α : Type} {g : State → α → State} (h : ∀ u a, DrawOnly u (g u a)) (as : List α) (s : State) :
    DrawOnly s (as.foldl g s) := by
  induction as generalizing s with
  | nil => exact refl s
  | cons a as ih => exact (h s a).trans (ih _)

theorem cfg (h : DrawOnly s t) : t.cfg = s.cfg := by unfold DrawOnly at h; rw [h]
theorem env (h : DrawOnly s t) : t.env = s.env := by unfold DrawOnly at h; rw [h]

theorem chunkEntered (s : State) (c : Nat) : DrawOnly s (s.chunkEntered c) := rfl

theorem chunkLoaded (s : State) (ptr : U24) : DrawOnly s (s.chunkLoaded ptr) := rfl

theorem chunkSet (s : State) (bs : List Byte) : DrawOnly s (s.chunkSet bs) := rfl

end DrawOnly

theorem EngineOnly.drawOnly (h : EngineOnly s t) : DrawOnly s t := by
  unfold EngineOnly at h
  unfold DrawOnly
  rw [h]

/-- Between the two states only the byte in the shifter, the chip selects and the trace differ. -/
def ShifterOnly (s t : State) : Prop :=
  t = { s with
        epd := { s.epd with
                  spiHold := t.epd.spiHold, spiBusy := t.epd.spiBusy, pinCsM := t.epd.pinCsM, pinCsS := t.epd.pinCsS },
        trace := t.trace }

namespace ShifterOnly

theorem refl (s : State) : ShifterOnly s s := rfl

theorem trans (h : ShifterOnly s t) (h' : ShifterOnly t u) : ShifterOnly s u := by
  unfold ShifterOnly at *
  rw [h', h]

theorem foldl {α : Type} {g : State → α → State} (h : ∀ u a, ShifterOnly u (g u a)) (as : List α) (s : State) :
    ShifterOnly s (as.foldl g s) := by
  induction as generalizing s with
  | nil => exact refl s
  | cons a as ih => exact (h s a).trans (ih _)

theorem epdPowered (h : ShifterOnly s t) : t.epd.epdPowered = s.epd.epdPowered := by unfold ShifterOnly at h; rw [h]
theorem streamIdx (h : ShifterOnly s t) : t.epd.streamIdx = s.epd.streamIdx := by unfold ShifterOnly at h; rw [h]

theorem postRefreshBatt (h : ShifterOnly s t) : t.epd.postRefreshBatt = s.epd.postRefreshBatt := by
  unfold ShifterOnly at h
  rw [h]

theorem drained (s : State) : ShifterOnly s s.drained := by
  rw [State.drained]
  split <;> rfl

theorem byteHanded (s : State) (c : CtrlSet) (k : ByteKind) (b : Byte) : ShifterOnly s (s.byteHanded c k b) :=
  (drained s).trans rfl

theorem selected (s : State) (level : Bool) : ShifterOnly s (s.selected level) := rfl

theorem entrySent (s : State) (cmd : Byte) (data : List Byte) : ShifterOnly s (s.entrySent cmd data) :=
  (((((drained s).trans (selected _ _)).trans (byteHanded _ _ _ _)).trans
    (foldl (fun u b => byteHanded u _ _ b) _ _)).trans (drained _)).trans (selected _ _)

theorem tableSent (s : State) (es : List (Byte × List Byte)) : ShifterOnly s (s.tableSent es) :=
  foldl (fun u (e : Byte × List Byte) => entrySent u e.1 e.2) es s

end ShifterOnly

/-! ### The chunk -/

theorem runs_zeroChunk (h : chunkBytes s.cfg ≤ s.cfg.scratchSize) : Runs zeroChunk s (.ok () s.chunkZeroed) :=
  .of_run id fun _ q => zeroChunk_run (s := s.withHostPos q) h

theorem runs_loadChunk (h : chunkBytes s.cfg ≤ s.cfg.scratchSize) {ptr : U24} (hp : s.draw.flashPtr = some ptr) :
    Runs loadChunk s (.ok () (s.chunkLoaded ptr)) :=
  fun hq => ⟨hq, fun q => ⟨_, loadChunk_run_quiet (s := s.withHostPos q) hq h hp⟩⟩

theorem runs_streamChunk (h : s.Drawing p) (hfilled : ∀ i, i < chunkBytes s.cfg → s.draw.scratch.read i ≠ none) :
    Runs streamChunk s (.ok () (s.chunkStreamed p)) := by
  have hread : (List.range (chunkBytes s.cfg)).map s.draw.scratch.read =
      ((List.range (chunkBytes s.cfg)).map fun i => (s.draw.scratch.read i).getD 0#8).map some := by
    rw [List.map_map]
    refine List.map_congr_left fun i hi => ?_
    obtain ⟨b, hb⟩ := Option.ne_none_iff_exists'.1 (hfilled i (List.mem_range.1 hi))
    simp [hb]
  exact .of_run (fun _ => (h.bytesSent _).quiet) fun _ q => streamChunk_run h hread q

theorem State.Drawing.chunkStreamed (h : s.Drawing p) : (s.chunkStreamed p).Drawing p := h.bytesSent _

theorem EngineOnly.chunkStreamed (s : State) (p : Plane) : EngineOnly s (s.chunkStreamed p) := EngineOnly.bytesSent s _

/-- A chunk that was written whole is filled. -/
theorem chunkSet_filled {bs : List Byte} (h : bs.length = chunkBytes s.cfg) :
    ∀ i, i < chunkBytes s.cfg → (s.chunkSet bs).draw.scratch.read i ≠ none := by
  intro i hi
  change Memory.read (Memory.writeBytes _ 0 bs) i ≠ none
  rw [Memory.read_writeBytes, if_pos ⟨Nat.zero_le _, by omega⟩, List.getElem?_eq_getElem (by omega)]
  nofun

/-! ### The chunks of a pass -/

/-- One chunk of an image pass (R94 lines 14 to 21). -/
def State.imageChunk (two : Bool) (p : Plane) (c : Nat) (s : State) : State :=
  let u := s.chunkEntered c
  (if hasPlane two p = true then u.chunkLoaded (u.draw.flashPtr.getD 0#24) else u.chunkZeroed).chunkStreamed p

/-- The draw is under way and the running pointer holds a value. -/
structure State.ImageDrawing (s : State) (p : Plane) : Prop extends s.Drawing p where
  pointer : s.draw.flashPtr ≠ none

theorem State.Drawing.chunkEntered (h : s.Drawing p) (c : Nat) : (s.chunkEntered c).Drawing p := h.of_eq rfl rfl rfl rfl

theorem State.Drawing.chunkLoaded (h : s.Drawing p) (ptr : U24) : (s.chunkLoaded ptr).Drawing p := h.of_eq rfl rfl rfl rfl

theorem State.Drawing.chunkSet (h : s.Drawing p) (bs : List Byte) : (s.chunkSet bs).Drawing p := h.of_eq rfl rfl rfl rfl

theorem State.imageChunk_of_plane (hplane : hasPlane two p = true) (c : Nat) {ptr : U24}
    (hptr : s.draw.flashPtr = some ptr) :
    s.imageChunk two p c = ((s.chunkEntered c).chunkLoaded ptr).chunkStreamed p := by
  have hgot : (s.chunkEntered c).draw.flashPtr = some ptr := hptr
  rw [State.imageChunk, if_pos hplane, hgot, Option.getD_some]

theorem State.imageChunk_of_dummy (hplane : ¬ hasPlane two p = true) (c : Nat) :
    s.imageChunk two p c = (s.chunkEntered c).chunkZeroed.chunkStreamed p := by
  rw [State.imageChunk, if_neg hplane]

theorem DrawOnly.imageChunk (s : State) (two : Bool) (p : Plane) (c : Nat) : DrawOnly s (s.imageChunk two p c) := by
  rw [State.imageChunk]
  split
  · exact (DrawOnly.chunkEntered s c).trans <| (DrawOnly.chunkLoaded _ _).trans (EngineOnly.chunkStreamed _ p).drawOnly
  · exact (DrawOnly.chunkEntered s c).trans <| (DrawOnly.chunkSet _ _).trans (EngineOnly.chunkStreamed _ p).drawOnly

theorem State.ImageDrawing.imageChunk (h : s.ImageDrawing p) (two : Bool) (c : Nat) :
    (s.imageChunk two p c).ImageDrawing p := by
  obtain ⟨ptr, hptr⟩ := Option.ne_none_iff_exists'.1 h.pointer
  by_cases hplane : hasPlane two p = true
  · rw [State.imageChunk_of_plane hplane c hptr]
    refine ⟨((h.chunkEntered c).chunkLoaded ptr).chunkStreamed, ?_⟩
    rw [(EngineOnly.chunkStreamed _ p).draw]
    nofun
  · rw [State.imageChunk_of_dummy hplane c]
    refine ⟨((h.chunkEntered c).chunkSet _).chunkStreamed, ?_⟩
    rw [(EngineOnly.chunkStreamed _ p).draw]
    exact h.pointer

theorem runs_imageChunk (h : s.ImageDrawing p) (c : Nat) :
    Runs (imageChunk two p c) s (.ok () (s.imageChunk two p c)) := by
  obtain ⟨ptr, hptr⟩ := Option.ne_none_iff_exists'.1 h.pointer
  by_cases hplane : hasPlane two p = true
  · rw [State.imageChunk_of_plane hplane c hptr]
    refine .line <| (Runs.get_bind .write).seq <| .line <| .ite_pos hplane <| .line <|
      (runs_loadChunk (by exact h.fits) (by exact hptr)).seq <| .line <|
      runs_streamChunk ((h.chunkEntered c).chunkLoaded ptr) (chunkSet_filled (s := s.chunkEntered c) ?_)
    rw [List.length_map, List.length_range]
  · rw [State.imageChunk_of_dummy hplane]
    exact .line <| (Runs.get_bind .write).seq <| .line <| .ite_neg hplane <| .line <|
      (runs_zeroChunk (by exact h.fits)).seq <| .line <|
      runs_streamChunk ((h.chunkEntered c).chunkSet _) (chunkSet_filled (s := s.chunkEntered c) List.length_replicate)

theorem DrawOnly.imageChunks (s : State) (two : Bool) (p : Plane) : DrawOnly s (s.imageChunks two p) :=
  foldl (fun u c => imageChunk u two p c) _ s

theorem State.ImageDrawing.imageChunks (h : s.ImageDrawing p) (two : Bool) : (s.imageChunks two p).ImageDrawing p :=
  List.foldlRecOn (motive := fun u : State => u.ImageDrawing p) _ _ h fun _ hu c _ => hu.imageChunk two c

theorem runs_imageChunks (h : s.ImageDrawing p) : Runs (imageChunks two p) s (.ok () (s.imageChunks two p)) :=
  .get_bind <| (Runs.forEach (P := fun t => t.ImageDrawing p) (g := fun c t => t.imageChunk two p c)
    (fun c _ ht => .line (runs_imageChunk ht c)) (fun c _ ht => ht.imageChunk two c) _ h).seq (.atLine _ _)

/-! ### Power-up inside a draw -/

/-- What power-up from `s` leaves, where it ends and where the host stays at a wait. -/
structure PowerLeaves (s : State) (x : Option BusyWait × State) : Prop where
  ready : x.2.BusReady
  cfg : x.2.cfg = s.cfg
  draw : x.2.draw = s.draw
  busy : x.2.env.busy = s.env.busy
  powered : x.1 = none → x.2.epd.epdPowered = true

theorem PowerLeaves.trans {x : Option BusyWait × State} (h : PowerLeaves t x) (hcfg : t.cfg = s.cfg)
    (hdraw : t.draw = s.draw) (hbusy : t.env.busy = s.env.busy) : PowerLeaves s x :=
  ⟨h.ready, h.cfg.trans hcfg, h.draw.trans hdraw, h.busy.trans hbusy, h.powered⟩

theorem PowerLeaves.setupSent (h : s.BusReady) : PowerLeaves s (none, s.setupSent) :=
  have honly := PanelOnly.setupSent s
  ⟨h.setupSent, honly.cfg, honly.draw, congrArg Env.busy honly.env, fun _ => rfl⟩

theorem PowerLeaves.stay (h : s.BusReady) (w : BusyWait) : PowerLeaves s (some w, s.drawn 1) :=
  ⟨h.drawn 1, rfl, rfl, rfl, nofun⟩

theorem PowerLeaves.freeFrom (h : s.BusReady) (w : BusyWait) : PowerLeaves s (s.freeFrom w) := by
  have hfrom12 {u : State} (hu : u.BusReady) : PowerLeaves u u.freeFrom12 := by
    rw [State.freeFrom12]
    split
    · exact .stay hu _
    · exact (PowerLeaves.setupSent (hu.drawn 1)).trans rfl rfl rfl
  have hfrom11 {u : State} (hu : u.BusReady) : PowerLeaves u u.freeFrom11 := by
    rw [State.freeFrom11]
    split
    · exact (hfrom12 (hu.drawn 1)).trans rfl rfl rfl
    · exact .stay hu _
  cases w with
  | line8 =>
    rw [State.freeFrom, State.freeFrom8]
    split
    · exact .stay h _
    · have honly := PanelOnly.powerOnSent (s.drawn 1)
      have hbusy : (s.drawn 1).powerOnSent.env.busy = s.env.busy := (congrArg Env.busy honly.env).trans rfl
      exact (hfrom11 (h.drawn 1).powerOnSent).trans honly.cfg honly.draw hbusy
  | line11 => exact hfrom11 h
  | line12 => exact hfrom12 h

theorem PowerLeaves.programmedFrom (h : s.BusReady) (w : BusyWait) : PowerLeaves s (none, s.programmedFrom w) := by
  cases w with
  | line8 =>
    have honly := PanelOnly.powerOnSent s
    exact (PowerLeaves.setupSent h.powerOnSent).trans honly.cfg honly.draw (congrArg Env.busy honly.env)
  | line11 => exact .setupSent h
  | line12 => exact .setupSent h

/-- How power-up from a busy wait on ends with no reading given: of a live panel, and of one that is not. -/
def State.powerEndFrom (w : BusyWait) (s : State) : Option BusyWait × State :=
  if s.cfg.assumePanelLive = true then (none, s.programmedFrom w) else s.freeFrom w

/-- How power-up ends with no reading given. -/
def State.powerEnd (s : State) : Option BusyWait × State :=
  if s.epd.epdPowered = true then (none, s) else s.railUp.powerEndFrom .line8

theorem State.powerEnd_of_live (h : s.cfg.assumePanelLive = true) : s.powerEnd = (none, s.poweredUp) := by
  have hfrom : s.railUp.powerEndFrom .line8 = (none, s.railUp.programmed) := if_pos h
  rw [State.powerEnd, State.poweredUp, hfrom]
  split <;> rfl

theorem State.powerEnd_of_free (h : s.cfg.assumePanelLive = false) : s.powerEnd = s.poweredFree := by
  have hfrom : s.railUp.powerEndFrom .line8 = s.railUp.freeFrom8 := if_neg (Bool.eq_false_iff.1 h)
  rw [State.powerEnd, State.poweredFree, hfrom]

theorem PowerLeaves.powerEndFrom (h : s.BusReady) (w : BusyWait) : PowerLeaves s (s.powerEndFrom w) := by
  rw [State.powerEndFrom]
  split
  · exact .programmedFrom h w
  · exact .freeFrom h w

theorem runs_powerUpFrom (h : s.BusReady) (hb : s.env.busy = []) (caller : PowerCaller) (w : BusyWait) :
    Runs (powerUpFrom w caller) s (powered caller (s.powerEndFrom w)) := by
  rw [State.powerEndFrom]
  by_cases hlive : s.cfg.assumePanelLive = true
  · rw [if_pos hlive]
    exact runs_powerUpFrom_live h caller hb hlive w
  · rw [if_neg hlive]
    exact runs_powerUpFrom_free h caller hb (Bool.eq_false_iff.2 hlive) w

/-- A draw can begin: the bus is sound, the parameters are in order, and no reading of BUSY is given. -/
structure State.DrawReady (s : State) : Prop where
  quiet : s.Quiet
  ready : s.ShifterReady
  connected : s.epd.epdPowered = true → s.epd.spiConnected = true
  params : paramsOk s.cfg = true
  noneGiven : s.env.busy = []

theorem State.DrawReady.of_eq (h : s.DrawReady) (hepd : t.epd = s.epd) (hcfg : t.cfg = s.cfg) (henv : t.env = s.env) :
    t.DrawReady where
  quiet := (congrArg Env.sched henv).trans h.quiet
  ready := by rw [State.ShifterReady, hepd]; exact h.ready
  connected := by rw [hepd]; exact h.connected
  params := by rw [hcfg]; exact h.params
  noneGiven := (congrArg Env.busy henv).trans h.noneGiven

theorem State.DrawReady.railUp (h : s.DrawReady) : s.railUp.BusReady :=
  State.BusReady.railUp h.quiet h.ready (tablesOk_of_paramsOk h.params)

theorem PowerLeaves.powerEnd (h : s.DrawReady) : PowerLeaves s s.powerEnd := by
  rw [State.powerEnd]
  split
  next hp => exact ⟨⟨h.quiet, h.connected hp, h.ready, tablesOk_of_paramsOk h.params⟩, rfl, rfl, rfl, fun _ => hp⟩
  next => exact (PowerLeaves.powerEndFrom h.railUp .line8).trans rfl rfl rfl

theorem runs_powerUp (h : s.DrawReady) (caller : PowerCaller) :
    Runs (powerUpIfNeeded caller) s (powered caller s.powerEnd) := by
  rw [State.powerEnd]
  by_cases hp : s.epd.epdPowered = true
  · rw [if_pos hp]
    exact runs_powerUpIfNeeded_of_powered hp caller
  · rw [if_neg hp]
    exact runs_powerUpIfNeeded (Bool.eq_false_iff.2 hp) caller (runs_powerUpFrom h.railUp h.noneGiven caller .line8)

/-! ### The transfer start of a pass -/

/-- The start command of plane `p` is sent, and the transfer start that the draw issued returns (R87, R91). -/
def State.passBegun (p : Plane) (s : State) : State := (s.startSent (isAccent p)).nestedReturn 0x13#8 .ok

section Start

variable {α : Type} {x : Option BusyWait × State} {caller : PowerCaller} {m : M Unit}

theorem runs_issueStart (hm : Runs m s (powered caller x)) (hx : PowerLeaves s x) (p : Plane) :
    Runs (Machine.issue 0x13#8 (m >>= fun _ => startTransferTail (isAccent p))) s
      (poweredThen caller (fun t => .ok () (t.passBegun p)) x) := by
  have hready := hx.ready
  obtain ⟨_ | w, t⟩ := x
  · exact (hm.seq (runs_startTransferTail hready _)).issue
  · exact hm.stop.issue_error

theorem runs_commandStart (hm : Runs m s (powered caller x)) (hx : PowerLeaves s x) (p : Plane) :
    Runs (Machine.command 0x13#8 (m >>= fun _ => startTransferTail (isAccent p))) s
      (poweredThen caller (fun t => .ok () (t.passBegun p)) x) := by
  have hready := hx.ready
  obtain ⟨_ | w, t⟩ := x
  · exact (hm.seq (runs_startTransferTail hready _)).command
  · exact hm.stop.command_stop

/-- What follows where the host does not stay at a wait. -/
theorem Runs.after_start {m : M Unit} {k : M α} {f : State → State} {g : State → EStateM.Result Stop State α}
    (hm : Runs m s (poweredThen caller (fun t => .ok () (f t)) x)) (hk : x.1 = none → Runs k (f x.2) (g x.2)) :
    Runs (m >>= fun _ => k) s (poweredThen caller g x) := by
  obtain ⟨_ | w, t⟩ := x
  · exact hm.seq (hk rfl)
  · exact hm.stop

theorem State.startSent_epdPowered (a : Bool) : (s.startSent a).epd.epdPowered = s.epd.epdPowered :=
  (ShifterOnly.entrySent s _ _).epdPowered

theorem State.passBegun_epd (p : Plane) : (s.passBegun p).epd = (s.startSent (isAccent p)).epd := rfl

theorem EngineOnly.passBegun (s : State) (p : Plane) : EngineOnly s (s.passBegun p) :=
  (PanelOnly.startSent s _).engineOnly.nestedReturn _ _

theorem State.BusReady.passBegun (h : s.BusReady) (p : Plane) : (s.passBegun p).BusReady :=
  (h.startSent (isAccent p)).of_eq rfl rfl rfl

/-- After its start command a pass is under way. -/
theorem PowerLeaves.drawing (hx : PowerLeaves s x) (hnone : x.1 = none) (hplane : s.draw.passPlane = some p)
    (hfits : chunkBytes s.cfg ≤ s.cfg.scratchSize) : (x.2.passBegun p).Drawing p := by
  have hready := hx.ready.passBegun p
  have honly := EngineOnly.passBegun x.2 p
  refine ⟨hready.quiet, hready.connected, hready.ready, ?_, ?_, ?_⟩
  · rw [State.passBegun_epd, State.startSent_epdPowered]
    exact hx.powered hnone
  · rw [honly.draw, hx.draw]
    exact hplane
  · rw [honly.cfg, hx.cfg]
    exact hfits

end Start

/-! ### The refresh at the end of a draw -/

/-- How the refresh ends with no reading given: of a live panel, and of one that is not. -/
def State.refreshEnd (s : State) : Option U16 × State :=
  if s.cfg.assumePanelLive = true then (none, s.refreshed) else s.refreshedFree

/-- The end of a refresh with the minimum code at which the host stays in the loop, if it does; past it, `k`. -/
def refreshThen (caller : RefreshCaller) (k : State → EStateM.Result Stop State Status) :
    Option U16 × State → EStateM.Result Stop State Status
  | (some low, t) => .error (.hold (.refreshPoll low caller)) t
  | (none, t) => k t

theorem runs_refresh (h : s.Drawing p) (hcfg : paramsOk s.cfg = true) (hb : s.env.busy = []) (caller : RefreshCaller) :
    Runs (refreshAndSleep caller) s (refreshThen caller (.ok .ok) s.refreshEnd) := by
  have hready := (h.busReady (tablesOk_of_paramsOk hcfg)).tableSent (panelTable s.cfg s.cfg.tableRefresh)
  have honly := PanelOnly.tableSent s (panelTable s.cfg s.cfg.tableRefresh)
  have hbusy := (congrArg Env.busy honly.env).trans hb
  have hcode : (s.tableSent (panelTable s.cfg s.cfg.tableRefresh)).nextCode = s.nextCode := by
    simp only [State.nextCode, honly.env]
  have hlow : minCode 0xFFFF#16 s.nextCode.1 = s.nextCode.1 :=
    BitVec.eq_of_toNat_eq (by rw [minCode_toNat]; exact Nat.min_eq_right (Nat.le_of_lt_succ s.nextCode.1.isLt))
  refine runs_refreshAndSleep (h.busReady (tablesOk_of_paramsOk hcfg)) h.powered ?_
  rw [State.refreshEnd]
  by_cases hlive : s.cfg.assumePanelLive = true
  · have hrun := runs_refreshFrom_live (caller := caller) (m := 0xFFFF#16) hready hbusy (by rw [honly.cfg, hlive])
    rw [State.codeRead, hcode, hlow] at hrun
    rw [if_pos hlive]
    exact hrun
  · have hfree := Bool.eq_false_iff.2 hlive
    have hpoll := runs_refreshPolls_free (caller := caller) (m := 0xFFFF#16) hbusy (by rw [honly.cfg, hfree])
    have hfuel : 1 = (s.tableSent (panelTable s.cfg s.cfg.tableRefresh)).env.busy.length + 1 := by rw [hbusy]; rfl
    rw [hfuel] at hpoll
    have hrun := runs_refreshFrom_freeEnd hpoll rfl hready.codeRead
    rw [if_neg hlive]
    refine .of_eq hrun ?_
    rw [refreshFreeResult, State.refreshedFree, State.codeRead, hcode, hlow]
    rw [honly.cfg]
    split <;> rfl

/-- A draw's end: the refresh that it issues, and its own return (R94 lines 22 and 23, R95 lines 16 and 17). -/
theorem runs_drawEnd (h : s.Drawing p) (hcfg : paramsOk s.cfg = true) (hb : s.env.busy = []) (caller : RefreshCaller)
    (op : Byte) (first last : Nat) (before : Nat) :
    Runs (Machine.atLine op before >>= fun _ => Machine.atLine op first >>= fun _ =>
        Machine.issue 0x15#8 (refreshAndSleep caller) >>= fun _ => Machine.atLine op last >>= fun _ => pure Status.ok) s
      (refreshThen caller (fun t => .ok .ok (t.nestedReturn 0x15#8 .ok)) s.refreshEnd) := by
  have hrun := runs_refresh h hcfg hb caller
  refine .line <| .line ?_
  generalize s.refreshEnd = x at hrun ⊢
  obtain ⟨_ | low, t⟩ := x
  · exact hrun.issue.seq <| .line <| .pure _
  · exact hrun.issue_error.stop

/-! ### The passes of an image -/

/-- How an image draw ends from the chunks of pass `p` on. -/
def imageResult (two : Bool) (p : Plane) (s : State) : EStateM.Result Stop State Status :=
  refreshThen .drawImage (fun t => .ok .ok (t.nestedReturn 0x15#8 .ok)) (s.imagePasses two p).refreshEnd

/-- The pass's plane is set (R94 line 11, R95 line 4). -/
def State.passSet (p : Plane) (s : State) : State := s.onDraw fun d => { d with passPlane := some p }

theorem State.Drawing.passStarted (h : s.Drawing p) (q : Plane) :
    s.passStarted q = (s.passSet q).passBegun q := by
  have hpowered : (s.passSet q).poweredUp = _ := if_pos h.powered
  exact congrArg (fun t => State.nestedReturn 0x13#8 .ok (State.startSent (isAccent q) t)) hpowered

theorem not_passSkipped_iff : ¬(hasPlane two p = false ∧ s.cfg.alwaysBothPasses = false) ↔
    hasPlane two p = true ∨ s.cfg.alwaysBothPasses = true := by
  cases hasPlane two p <;> cases s.cfg.alwaysBothPasses <;> decide

theorem State.imagePass_of_skipped (h : hasPlane two p = false ∧ s.cfg.alwaysBothPasses = false) :
    s.imagePass two p = s := if_neg fun hruns => not_passSkipped_iff.2 hruns h

theorem State.imagePass_of_runs (h : ¬(hasPlane two p = false ∧ s.cfg.alwaysBothPasses = false)) :
    s.imagePass two p = (s.passStarted p).imageChunks two p := if_pos (not_passSkipped_iff.1 h)

/-- A pass after the first starts on a powered panel. -/
theorem State.Drawing.passStarted_drawing {q : Plane} (h : s.Drawing p) (ht : TablesOk s.cfg) :
    (s.passStarted q).Drawing q := by
  have hleaves : PowerLeaves (s.passSet q)
      (none, s.passSet q) :=
    ⟨⟨h.quiet, h.connected, h.ready, ht⟩, rfl, rfl, rfl, fun _ => h.powered⟩
  rw [h.passStarted]
  exact hleaves.drawing rfl rfl h.fits

theorem State.Drawing.issueStart {caller : PowerCaller} {q : Plane} (h : s.Drawing p) (ht : TablesOk s.cfg) :
    Runs (Machine.issue 0x13#8 (startTransfer caller (isAccent q))) (s.passSet q)
      (.ok () (s.passStarted q)) := by
  have hready : State.BusReady (s.passSet q) := ⟨h.quiet, h.connected, h.ready, ht⟩
  rw [h.passStarted]
  have hup : Runs (powerUpIfNeeded caller) (s.passSet q) (.ok () (s.passSet q)) :=
    runs_powerUpIfNeeded_of_powered (by exact h.powered) caller
  exact (hup.seq (runs_startTransferTail hready _)).issue

theorem DrawOnly.passBegun (s : State) (p : Plane) : DrawOnly s (s.passBegun p) := (EngineOnly.passBegun s p).drawOnly

theorem DrawOnly.passStarted (s : State) (p : Plane) : DrawOnly s (s.passStarted p) :=
  trans (t := s.passSet p) rfl
    (((PanelOnly.transferStarted _ _).engineOnly.nestedReturn _ _).drawOnly)

theorem DrawOnly.imagePass (s : State) (two : Bool) (p : Plane) : DrawOnly s (s.imagePass two p) := by
  rw [State.imagePass]
  split
  · exact (passStarted s p).trans (imageChunks _ two p)
  · exact refl s

theorem State.ImageDrawing.passStarted {q : Plane} (h : s.ImageDrawing p) (ht : TablesOk s.cfg) :
    (s.passStarted q).ImageDrawing q := by
  refine ⟨h.passStarted_drawing ht, ?_⟩
  rw [h.toDrawing.passStarted, (EngineOnly.passBegun _ q).draw]
  exact h.pointer

theorem runs_imagePass {q : Plane} (h : s.ImageDrawing p) (ht : TablesOk s.cfg) :
    Runs (imagePass two q) s (.ok () (s.imagePass two q)) := by
  refine .line <| .line <| .get_bind ?_
  by_cases hskip : hasPlane two q = false ∧ s.cfg.alwaysBothPasses = false
  · rw [State.imagePass_of_skipped hskip]
    exact .ite_pos hskip <| .pure ()
  · rw [State.imagePass_of_runs hskip]
    exact .ite_neg hskip <| .line <| .update <| .line <| (h.issueStart ht).seq <| runs_imageChunks (h.passStarted ht)

theorem State.ImageDrawing.imagePass {q : Plane} (h : s.ImageDrawing p) (ht : TablesOk s.cfg) :
    ∃ q', (s.imagePass two q).ImageDrawing q' := by
  by_cases hskip : hasPlane two q = false ∧ s.cfg.alwaysBothPasses = false
  · exact ⟨p, by rwa [State.imagePass_of_skipped hskip]⟩
  · exact ⟨q, by rw [State.imagePass_of_runs hskip]; exact (h.passStarted ht).imageChunks two⟩

section Passes

variable (hcfg : paramsOk s.cfg = true) (hb : s.env.busy = [])
include hcfg hb

theorem runs_imageEnd (h : s.Drawing p) : Runs imageEnd s
    (refreshThen .drawImage (fun t => .ok .ok (t.nestedReturn 0x15#8 .ok)) s.refreshEnd) :=
  runs_drawEnd h hcfg hb _ _ _ _ _

/-- The second pass and the end (R94 lines 9 to 23). -/
theorem runs_imageLast (h : s.ImageDrawing p) : Runs (Machine.imagePass two .accent >>= fun _ => imageEnd) s
    (refreshThen .drawImage (fun t => .ok .ok (t.nestedReturn 0x15#8 .ok)) (s.imagePass two .accent).refreshEnd) := by
  obtain ⟨q, hlast⟩ := h.imagePass (two := two) (q := .accent) (tablesOk_of_paramsOk hcfg)
  have honly := DrawOnly.imagePass s two .accent
  exact (runs_imagePass h (tablesOk_of_paramsOk hcfg)).seq <|
    runs_imageEnd (by rw [honly.cfg]; exact hcfg) (by rw [honly.env]; exact hb) hlast.toDrawing

theorem runs_imageAfterStart (h : s.ImageDrawing p) : Runs (imageAfterStart two p) s (imageResult two p s) := by
  have honly := DrawOnly.imageChunks s two p
  have hcfg' : paramsOk (s.imageChunks two p).cfg = true := by rw [honly.cfg]; exact hcfg
  have hb' : (s.imageChunks two p).env.busy = [] := by rw [honly.env]; exact hb
  cases p with
  | mono => exact (runs_imageChunks h).seq <| runs_imageLast hcfg' hb' (h.imageChunks two)
  | accent =>
    exact (runs_imageChunks h).seq <| (Runs.pure ()).seq <| runs_imageEnd hcfg' hb' (h.imageChunks two).toDrawing

end Passes

/-! ### The whole draw -/

theorem State.Quiet.onDraw {g : Draw → Draw} (h : s.Quiet) : (s.onDraw g).Quiet := h

theorem tick_setDraw_run (hq : s.Quiet) (g : Draw → Draw) (k : M Unit) :
    (Machine.tick >>= fun _ => setDraw g >>= fun _ => k).run s = k.run (s.onDraw g) := by
  rw [run_bind_ok (tick_run_quiet hq)]
  rfl

theorem drawCtxReset_run (hq : s.Quiet) : drawCtxReset.run s = .ok () s.ctxReset := by
  rw [drawCtxReset, run_bind_ok (run_get_ok _), tick_setDraw_run hq, tick_setDraw_run hq.onDraw,
    tick_setDraw_run hq.onDraw.onDraw, tick_setDraw_run hq.onDraw.onDraw.onDraw,
    tick_setDraw_run hq.onDraw.onDraw.onDraw.onDraw, tick_setDraw_run hq.onDraw.onDraw.onDraw.onDraw.onDraw,
    run_bind_ok (tick_run_quiet hq.onDraw.onDraw.onDraw.onDraw.onDraw.onDraw), setDraw_run]
  simp only [State.onDraw, State.ctxReset, toU16]

theorem runs_drawCtxReset : Runs drawCtxReset s (.ok () s.ctxReset) :=
  .of_run id fun hq _ => drawCtxReset_run (by exact hq)

theorem State.DrawReady.ctxReset (h : s.DrawReady) : s.ctxReset.DrawReady := h.of_eq rfl rfl rfl

theorem chunk_fits {c : Params} (h : paramsOk c = true) : chunkBytes c ≤ c.scratchSize := by
  obtain ⟨-, -, -, -, -, ⟨hfits, -⟩, -⟩ := (paramsOk_iff c).1 h
  exact hfits

theorem PowerLeaves.imageDrawing {x : Option BusyWait × State} (hx : PowerLeaves s x) (hnone : x.1 = none)
    (hplane : s.draw.passPlane = some p) (hptr : s.draw.flashPtr ≠ none) (hfits : chunkBytes s.cfg ≤ s.cfg.scratchSize) :
    (x.2.passBegun p).ImageDrawing p := by
  refine ⟨hx.drawing hnone hplane hfits, ?_⟩
  rw [(EngineOnly.passBegun x.2 p).draw, hx.draw]
  exact hptr

/-- The passes of an image draw from the power-up of its first pass on. -/
theorem runs_imageBegun {addr : U24} {begun : State} (h : s.DrawReady) (hbegun : begun = s.imageBegun addr) :
    Runs (imagePass two .mono >>= fun _ => imagePass two .accent >>= fun _ => imageEnd) begun
      (poweredThen (.drawImage two .mono) (fun t => imageResult two .mono (t.passBegun .mono))
        (begun.passSet .mono).powerEnd) := by
  subst hbegun
  have hready : State.DrawReady ((s.imageBegun addr).passSet .mono) := h.of_eq rfl rfl rfl
  have hleaves := PowerLeaves.powerEnd hready
  have hruns : ¬(hasPlane two .mono = false ∧ s.cfg.alwaysBothPasses = false) := by
    cases two <;> simp [hasPlane, isAccent]
  have hstart := runs_issueStart (runs_powerUp hready (.drawImage two .mono)) hleaves .mono
  have hdrawing (hnone) := hleaves.imageDrawing (p := .mono) hnone rfl nofun (chunk_fits hready.params)
  have honly (t : State) : DrawOnly t ((t.passBegun .mono).imageChunks two .mono) :=
    (DrawOnly.passBegun t _).trans (DrawOnly.imageChunks _ two _)
  have hcfg := hready.params
  have hb := hready.noneGiven
  rw [← hleaves.cfg] at hcfg
  rw [← hleaves.busy] at hb
  refine Runs.after_start (f := fun t => (t.passBegun .mono).imageChunks two .mono) ?_
    fun hnone => runs_imageLast (by rw [(honly _).cfg]; exact hcfg) (by rw [(honly _).env]; exact hb)
      ((hdrawing hnone).imageChunks two)
  refine .line <| .line <| .get_bind <| .ite_neg hruns <| .line <| .update <| .line <| ?_
  exact Runs.after_start hstart fun hnone => runs_imageChunks (hdrawing hnone)

/-- CLIENT_DRAW_IMAGE of a supported tag, of a live panel and of one that is not (R94). -/
theorem runs_clientDrawImage {addr : U24} (h : s.DrawReady) (hpacked : s.cfg.packedPlanes = false)
    (htag : flashRead s.env addr = s.cfg.type2bpp ∨ flashRead s.env addr = s.cfg.type1bpp)
    (htwo : two = decide (flashRead s.env addr = s.cfg.type2bpp)) :
    Runs (clientDrawImage addr) s (poweredThen (.drawImage two .mono) (fun t => imageResult two .mono (t.passBegun .mono))
      ((s.imageBegun addr).passSet .mono).powerEnd) := by
  have hsupported : ¬(flashRead s.env addr ≠ s.cfg.type1bpp ∧ flashRead s.env addr ≠ s.cfg.type2bpp) :=
    fun hno => htag.elim hno.2 hno.1
  subst htwo
  exact .line <| .get_bind <| .ite_neg (by simp [hpacked]) <| .line <| .update <| .line <| .ite_neg hsupported <|
    .line <| runs_drawCtxReset.seq <| .line <| .line <| .update <| runs_imageBegun h rfl

/-- A draw that stood at a busy wait of power-up (R94, R114). -/
theorem runs_imageHeld {w : BusyWait} (h : s.BusReady) (hb : s.env.busy = []) (hcfg : paramsOk s.cfg = true)
    (hplane : s.draw.passPlane = some p) (hptr : s.draw.flashPtr ≠ none) :
    Runs (heldBody (.busyWait w (.drawImage two p))) s
      (poweredThen (.drawImage two p) (fun t => imageResult two p (t.passBegun p)) (s.powerEndFrom w)) := by
  have hleaves := PowerLeaves.powerEndFrom h w
  have honly (t : State) := EngineOnly.passBegun t p
  have hfits := chunk_fits hcfg
  rw [← hleaves.cfg] at hcfg
  rw [← hleaves.busy] at hb
  exact (runs_commandStart (runs_powerUpFrom h (by rw [← hleaves.busy]; exact hb) _ w) hleaves p).after_start fun hnone =>
    runs_imageAfterStart (by rw [(honly _).cfg]; exact hcfg) (by rw [(honly _).env]; exact hb)
      (hleaves.imageDrawing hnone hplane hptr hfits)

/-! ### The closed forms -/

theorem DrawOnly.imagePasses (s : State) (two : Bool) (p : Plane) : DrawOnly s (s.imagePasses two p) := by
  cases p with
  | mono => exact (imageChunks s two .mono).trans (imagePass _ two .accent)
  | accent => exact imageChunks s two .accent

theorem ended_imageResult_of_live (h : s.cfg.assumePanelLive = true) :
    ended 0x20#8 (imageResult two p s) = (s.imageFrom two p).returned 0x20#8 .ok := by
  have hend : (s.imagePasses two p).refreshEnd = (none, (s.imagePasses two p).refreshed) :=
    if_pos (by rw [(DrawOnly.imagePasses s two p).cfg]; exact h)
  rw [imageResult, hend]
  rfl

theorem ended_imageResult_of_free (h : s.cfg.assumePanelLive = false) :
    ended 0x20#8 (imageResult two p s) = s.imageFreeFrom two p := by
  have hend : (s.imagePasses two p).refreshEnd = (s.imagePasses two p).refreshedFree :=
    if_neg (by rw [(DrawOnly.imagePasses s two p).cfg, h]; nofun)
  rw [imageResult, hend, State.imageFreeFrom]
  generalize (s.imagePasses two p).refreshedFree = x
  obtain ⟨_ | low, t⟩ := x <;> rfl

theorem ended_imageStart_of_free {x : Option BusyWait × State} (h : x.2.cfg.assumePanelLive = false) :
    ended 0x20#8 (poweredThen (.drawImage two p) (fun t => imageResult two p (t.passBegun p)) x) =
      State.startOrStay (.drawImage two p) p id (State.imageFreeFrom two p) x := by
  obtain ⟨_ | w, t⟩ := x
  · exact ended_imageResult_of_free (by rw [(EngineOnly.passBegun t p).cfg]; exact h)
  · rfl

end Sys2Proof.Machine

/-! PROOF. What a draw puts on the panel's bus and reads of FLASH, and what it leaves in the draw context (R81, R85, R87
to R89, R93, R94). -/

namespace Sys2Proof.Machine

variable {s t u : State} {p : Plane} {two : Bool} {bytes more : List (CtrlSet × ByteKind × Byte)}
  {reads further : List (U24 × Nat)} {n m k j : Nat}

/-! ### The account of a piece of the trace -/

theorem panelSent_append (ev fv : List Event) : panelSent (ev ++ fv) = panelSent ev ++ panelSent fv :=
  List.filterMap_append

theorem flashReads_append (ev fv : List Event) : flashReads (ev ++ fv) = flashReads ev ++ flashReads fv :=
  List.filterMap_append

theorem sentBytes_append (ev fv : List Event) : sentBytes (ev ++ fv) = sentBytes ev + sentBytes fv := List.countP_append

/-- From `s` to `t` the trace grows, `bytes` go to the panel's bus behind what was in flight (what is in flight at the end
among them), FLASH is read as `reads` says, `n` bytes are streamed, and the baseline is re-powered `k` times. -/
def Accounts (s t : State) (bytes : List (CtrlSet × ByteKind × Byte)) (reads : List (U24 × Nat)) (n k : Nat) : Prop :=
  ∃ ev, t.trace = s.trace ++ ev ∧ panelSent ev ++ t.inFlight = s.inFlight ++ bytes ∧ flashReads ev = reads ∧
    sentBytes ev = n ∧ ev.count .baselineRepower = k

namespace Accounts

theorem refl (s : State) : Accounts s s [] [] 0 0 := ⟨[], by simp, by simp [panelSent], rfl, rfl, rfl⟩

theorem trans (h : Accounts s t bytes reads n k) (h' : Accounts t u more further m j) :
    Accounts s u (bytes ++ more) (reads ++ further) (n + m) (k + j) := by
  obtain ⟨ev, htrace, hsent, rfl, rfl, rfl⟩ := h
  obtain ⟨fv, htrace', hsent', rfl, rfl, rfl⟩ := h'
  refine ⟨ev ++ fv, by rw [htrace', htrace, List.append_assoc], ?_, flashReads_append _ _, sentBytes_append _ _,
    List.count_append⟩
  rw [panelSent_append, List.append_assoc, hsent', ← List.append_assoc, hsent, List.append_assoc]

theorem of_eq (h : Accounts s t bytes reads n k) (hbytes : bytes = more) (hreads : reads = further) (hn : n = m)
    (hk : k = j) : Accounts s t more further m j := by
  subst hbytes hreads hn hk
  exact h

/-- Events that are none of the counted ones, with the shifter left as it is. -/
theorem of_events (ev : List Event) (htrace : t.trace = s.trace ++ ev) (hflight : t.inFlight = s.inFlight)
    (hsent : panelSent ev = []) (hreads : flashReads ev = []) :
    Accounts s t [] [] (sentBytes ev) (ev.count .baselineRepower) :=
  ⟨ev, htrace, by rw [hsent, hflight, List.append_nil, List.nil_append], hreads, rfl, rfl⟩

end Accounts

/-! ### The shifter -/

theorem State.drained_inFlight (hr : s.ShifterReady) : s.drained.inFlight = [] := by
  rw [State.inFlight, if_neg (by rw [State.drained_idle hr]; nofun)]

theorem State.inFlight_of_idle (h : s.epd.spiBusy = false) : s.inFlight = [] := if_neg (by rw [h]; nofun)

theorem Accounts.drained (hr : s.ShifterReady) : Accounts s s.drained [] [] 0 0 := by
  by_cases hb : s.epd.spiBusy = true
  · obtain ⟨⟨c, kind, b⟩, hold⟩ := Option.ne_none_iff_exists'.1 (hr hb).2
    have hdrained : s.drained =
        { s with epd := { s.epd with spiBusy := false }, trace := s.trace ++ [.panelByte c kind b] } := by
      simp only [State.drained, hb, hold]
    have hflight : s.inFlight = [(c, kind, b)] := by rw [State.inFlight, if_pos hb, hold]; rfl
    refine ⟨[.panelByte c kind b], by rw [hdrained], ?_, rfl, rfl, rfl⟩
    rw [State.drained_inFlight hr, hflight]
    rfl
  · rw [State.drained_of_idle (Bool.eq_false_iff.2 hb)]
    exact .refl s

theorem Accounts.byteHanded (hr : s.ShifterReady) (c : CtrlSet) (kind : ByteKind) (b : Byte) :
    Accounts s (s.byteHanded c kind b) [(c, kind, b)] [] 0 0 := by
  obtain ⟨ev, htrace, hsent, hreads, hn, hk⟩ := Accounts.drained hr
  refine ⟨ev, htrace, ?_, hreads, hn, hk⟩
  rw [State.drained_inFlight hr, List.append_nil, List.append_nil] at hsent
  rw [hsent]
  rfl

theorem Accounts.selected (s : State) (level : Bool) : Accounts s (s.selected level) [] [] 0 0 := by
  have hcounts (cs : List Ctrl) : panelSent (cs.map fun c => Event.pin (.cs c) level) = [] ∧
      flashReads (cs.map fun c => Event.pin (.cs c) level) = [] ∧
      sentBytes (cs.map fun c => Event.pin (.cs c) level) = 0 ∧
      (cs.map fun c => Event.pin (.cs c) level).count .baselineRepower = 0 := by
    induction cs with
    | nil => exact ⟨rfl, rfl, rfl, rfl⟩
    | cons c cs ih => simpa [panelSent, flashReads, sentBytes] using ih
  obtain ⟨hsent, hreads, hn, hk⟩ := hcounts (controllers s.cfg)
  exact (Accounts.of_events (s := s) (t := s.selected level) _ rfl rfl hsent hreads).of_eq rfl rfl hn hk

/-! ### Entries and tables -/

theorem Accounts.bytesHanded (h : s.BusReady) (c : CtrlSet) (kind : ByteKind) (bs : List Byte) :
    Accounts s (bs.foldl (fun u b => u.byteHanded c kind b) s) (bs.map fun b => (c, kind, b)) [] 0 0 := by
  induction bs generalizing s with
  | nil => exact .refl s
  | cons b bs ih => exact (Accounts.byteHanded h.ready c kind b).trans (ih (h.byteHanded c kind b))

theorem State.BusReady.drained (h : s.BusReady) : s.drained.BusReady :=
  ⟨(congrArg Env.sched State.drained_env).trans h.quiet, State.drained_spiConnected.trans h.connected,
    State.drained_ready h.ready, by rw [State.drained_cfg]; exact h.tables⟩

theorem State.BusReady.selected (h : s.BusReady) (level : Bool) : (s.selected level).BusReady :=
  ⟨h.quiet, h.connected, h.ready, h.tables⟩

theorem State.BusReady.bytesHanded (h : s.BusReady) (c : CtrlSet) (kind : ByteKind) (bs : List Byte) :
    State.BusReady (bs.foldl (fun u b => u.byteHanded c kind b) s) :=
  List.foldlRecOn (motive := State.BusReady) _ _ h fun _ hu b _ => hu.byteHanded c kind b

theorem Accounts.entrySent (h : s.BusReady) (cmd : Byte) (data : List Byte) :
    Accounts s (s.entrySent cmd data) (entryBytes s.cfg cmd data) [] 0 0 := by
  have hup := h.drained.selected s.cfg.csActive
  have hcmd := hup.byteHanded (allSet s.cfg) .cmd cmd
  have hdata := hcmd.bytesHanded (allSet s.cfg) .data data
  refine (((((Accounts.drained h.ready).trans (.selected _ _)).trans (.byteHanded hup.ready _ _ _)).trans
    (.bytesHanded hcmd _ _ _)).trans (.drained hdata.ready)).trans (.selected _ _) |>.of_eq ?_ rfl rfl rfl
  simp [entryBytes]

theorem Accounts.tableSent (h : s.BusReady) (es : List (Byte × List Byte)) :
    Accounts s (s.tableSent es) (es.flatMap fun e => entryBytes s.cfg e.1 e.2) [] 0 0 := by
  induction es generalizing s with
  | nil => exact .refl s
  | cons e es ih =>
    have hrest := ih (h.entrySent e.1 e.2)
    rw [(PanelOnly.entrySent s e.1 e.2).cfg] at hrest
    exact (Accounts.entrySent h e.1 e.2).trans hrest

/-! ### Power-up, the start command and the end of the refresh -/

theorem Accounts.powerOnSent (h : s.BusReady) :
    Accounts s s.powerOnSent (tableBytes s.cfg s.cfg.tablePowerup ++ entryBytes s.cfg s.cfg.cmdPowerOn []) [] 0 0 := by
  have hentry := Accounts.entrySent (h.tableSent (panelTable s.cfg s.cfg.tablePowerup)) s.cfg.cmdPowerOn []
  rw [(PanelOnly.tableSent s _).cfg] at hentry
  exact (Accounts.tableSent h _).trans hentry

theorem Accounts.setupSent (h : s.BusReady) :
    Accounts s s.setupSent
      (tableBytes s.cfg s.cfg.tableSetup ++ entryBytes s.cfg s.cfg.cmdVcom [s.cfg.vcomCal]) [] 0 0 := by
  have hentry := Accounts.entrySent (h.tableSent (panelTable s.cfg s.cfg.tableSetup)) s.cfg.cmdVcom [s.cfg.vcomCal]
  rw [(PanelOnly.tableSent s _).cfg] at hentry
  exact (Accounts.tableSent h _).trans hentry

theorem Accounts.railUp (s : State) : Accounts s s.railUp [] [] 0 0 := by
  have hoff := Accounts.selected s (!s.cfg.csActive)
  have hrail : Accounts (s.selected (!s.cfg.csActive)) s.railUp [] [] 0 0 :=
    .of_events [.pin .pwr (!s.cfg.pwrOffLevel), .spiMux true, .sleep s.cfg.tSettle1, .pin .rst (!s.cfg.rstActive),
      .sleep s.cfg.tSettle2] rfl rfl rfl rfl
  exact hoff.trans hrail

theorem Accounts.poweredUp (hq : s.Quiet) (hr : s.ShifterReady) (ht : TablesOk s.cfg) :
    Accounts s s.poweredUp (if s.epd.epdPowered = true then [] else powerUpBytes s.cfg) [] 0 0 := by
  rw [State.poweredUp]
  split
  · exact .refl s
  · have hrail := State.BusReady.railUp hq hr ht
    have hsetup := Accounts.setupSent hrail.powerOnSent
    rw [(PanelOnly.powerOnSent s.railUp).cfg] at hsetup
    refine ((Accounts.railUp s).trans <| (Accounts.powerOnSent hrail).trans hsetup).of_eq ?_ rfl rfl rfl
    simp only [powerUpBytes, List.nil_append, List.append_assoc]
    rfl

theorem Accounts.passBegun (h : s.BusReady) (p : Plane) :
    Accounts s (s.passBegun p) (entryBytes s.cfg (if p = .accent then s.cfg.cmdDtm2 else s.cfg.cmdDtm1) []) [] 0 0 := by
  have hsent := Accounts.entrySent h (if isAccent p = true then s.cfg.cmdDtm2 else s.cfg.cmdDtm1) []
  have hreturn : Accounts (s.startSent (isAccent p)) (s.passBegun p) [] [] 0 0 :=
    .of_events [.result 0x13#8 .ok] rfl rfl rfl rfl
  refine (hsent.trans hreturn).of_eq ?_ rfl rfl rfl
  cases p <;> simp [isAccent]

theorem State.BusReady.shutDown_inFlight (h : s.BusReady) (hp : s.epd.epdPowered = true) :
    s.shutDown.epd.spiBusy = false := by
  rw [State.shutDown, if_neg (by rw [hp]; nofun)]
  exact State.drained_idle (h.tableSent _).ready

theorem Accounts.shutDown (h : s.BusReady) (hp : s.epd.epdPowered = true) :
    Accounts s s.shutDown (tableBytes s.cfg s.cfg.tablePowerdown) [] 0 0 := by
  have hready := (h.tableSent (panelTable s.cfg s.cfg.tablePowerdown)).ready
  have hsent := (Accounts.tableSent h (panelTable s.cfg s.cfg.tablePowerdown)).trans (.drained hready)
  have hoff (v : State) : Accounts v { v with
      epd := { v.epd with spiConnected := false, pinLinesLow := true }, trace := v.trace ++ [.spiMux false] } [] [] 0 0 :=
    .of_events [.spiMux false] rfl rfl rfl rfl
  have hlow (v : State) : Accounts v { v with
      epd := { v.epd with pinRst := false, pinPwr := s.cfg.pwrOffLevel, epdPowered := false, streamIdx := 0 },
      trace := v.trace ++ [.pin .rst false, .pin .pwr s.cfg.pwrOffLevel] } [] [] 0 0 :=
    .of_events [.pin .rst false, .pin .pwr s.cfg.pwrOffLevel] rfl rfl rfl rfl
  rw [State.shutDown, if_neg (by rw [hp]; nofun)]
  exact (((hsent.trans (hoff _)).trans (.selected _ false)).trans (hlow _)).of_eq (by simp [tableBytes]) rfl rfl rfl

/-- The refresh's lines 4 to 9 (R89). -/
def State.refreshRead (s : State) : State :=
  let sent := s.tableSent (panelTable s.cfg s.cfg.tableRefresh)
  { sent with
    env := s.nextCode.2,
    epd := { sent.epd with postRefreshBatt := some (adcScale s.cfg s.nextCode.1) },
    trace := sent.trace ++ refreshEvents [s.nextCode.1] ++ [.baselineRepower] }

theorem State.refreshed_eq : s.refreshed = s.refreshRead.shutDown := by
  rw [State.refreshed, State.refreshEnded, State.refreshRead, (PanelOnly.tableSent s _).cfg]

theorem State.BusReady.refreshRead (h : s.BusReady) : s.refreshRead.BusReady := by
  obtain ⟨-, hconnected, hready, htables⟩ := h.tableSent (panelTable s.cfg s.cfg.tableRefresh)
  exact ⟨State.codeRead_sched.trans h.quiet, hconnected, hready, htables⟩

theorem State.refreshRead_epdPowered : s.refreshRead.epd.epdPowered = s.epd.epdPowered :=
  (ShifterOnly.tableSent s (panelTable s.cfg s.cfg.tableRefresh)).epdPowered

theorem State.refreshRead_cfg : s.refreshRead.cfg = s.cfg :=
  (PanelOnly.tableSent s (panelTable s.cfg s.cfg.tableRefresh)).cfg

theorem Accounts.refreshRead (h : s.BusReady) :
    Accounts s s.refreshRead (tableBytes s.cfg s.cfg.tableRefresh) [] 0 1 := by
  have hsent := Accounts.tableSent h (panelTable s.cfg s.cfg.tableRefresh)
  have htrace : s.refreshRead.trace = (s.tableSent (panelTable s.cfg s.cfg.tableRefresh)).trace ++
      (refreshEvents [s.nextCode.1] ++ [.baselineRepower]) := List.append_assoc _ _ _
  have hread : Accounts (s.tableSent (panelTable s.cfg s.cfg.tableRefresh)) s.refreshRead [] [] 0 1 :=
    (Accounts.of_events _ htrace rfl rfl rfl).of_eq rfl rfl (by simp [refreshEvents, sentBytes]) (by simp [refreshEvents])
  exact (hsent.trans hread).of_eq (List.append_nil _) rfl rfl rfl

/-- The refresh and its shutdown (R89, R86). -/
theorem Accounts.refreshed (h : s.BusReady) (hp : s.epd.epdPowered = true) :
    Accounts s s.refreshed (tableBytes s.cfg s.cfg.tableRefresh ++ tableBytes s.cfg s.cfg.tablePowerdown) [] 0 1 := by
  have hdown := Accounts.shutDown h.refreshRead (State.refreshRead_epdPowered.trans hp)
  rw [State.refreshRead_cfg] at hdown
  rw [State.refreshed_eq]
  exact (Accounts.refreshRead h).trans hdown

theorem State.shutDown_epd (hp : s.epd.epdPowered = true) :
    s.shutDown.epd.epdPowered = false ∧ s.shutDown.epd.postRefreshBatt = s.epd.postRefreshBatt := by
  rw [State.shutDown, if_neg (by rw [hp]; nofun)]
  exact ⟨rfl, ((ShifterOnly.tableSent s (panelTable s.cfg s.cfg.tablePowerdown)).trans (.drained _)).postRefreshBatt⟩

/-! ### Streamed bytes -/

/-- Where the bytes of a chunk go when the next byte of the pass has index `i` (R88, R93). -/
def streamed (c : Params) (p : Plane) (i : Nat) (bs : List Byte) : List (CtrlSet × ByteKind × Byte) :=
  (bs.flatMap (repack c p)).mapIdx fun k b => (streamRoute c (i + k), .data, b)

theorem streamed_append (c : Params) (p : Plane) (i : Nat) (bs cs : List Byte) :
    streamed c p i (bs ++ cs) = streamed c p i bs ++ streamed c p (i + (bs.flatMap (repack c p)).length) cs := by
  simp only [streamed, List.flatMap_append, List.mapIdx_append, Nat.add_comm, Nat.add_left_comm]

theorem passBytes_eq (c : Params) (p : Plane) (bs : List Byte) :
    passBytes c p bs = entryBytes c (if p = .accent then c.cmdDtm2 else c.cmdDtm1) [] ++ streamed c p 0 bs := by
  simp only [passBytes, streamed, Nat.zero_add]

theorem passBytes_mono (c : Params) (bs : List Byte) :
    passBytes c .mono bs = entryBytes c c.cmdDtm1 [] ++ streamed c .mono 0 bs := passBytes_eq c .mono bs

theorem Accounts.byteSent (hr : s.ShifterReady) (b : Byte) :
    Accounts s (s.byteSent b) [(streamRoute s.cfg s.epd.streamIdx, .data, b)] [] 1 0 := by
  have hreturn : Accounts (s.byteHanded (streamRoute s.cfg s.epd.streamIdx) .data b) (s.byteSent b) [] [] 1 0 :=
    .of_events [.result 0x14#8 .ok] rfl rfl rfl rfl
  exact (Accounts.byteHanded hr _ _ b).trans hreturn

theorem Accounts.bytesSent (h : s.Drawing p) (bs : List Byte) :
    Accounts s (s.bytesSent bs) (bs.mapIdx fun k b => (streamRoute s.cfg (s.epd.streamIdx + k), .data, b)) []
        bs.length 0 ∧
      (s.bytesSent bs).epd.streamIdx = s.epd.streamIdx + bs.length := by
  induction bs generalizing s with
  | nil => exact ⟨.refl s, rfl⟩
  | cons b bs ih =>
    obtain ⟨hrest, hidx⟩ := ih (h.byteSent b)
    have hnext : (s.byteSent b).epd.streamIdx = s.epd.streamIdx + 1 := rfl
    have hcfg : (s.byteSent b).cfg = s.cfg := (EngineOnly.bytesSent s [b]).cfg
    rw [hnext, hcfg] at hrest
    rw [hnext] at hidx
    refine ⟨((Accounts.byteSent h.ready b).trans hrest).of_eq ?_ rfl (Nat.add_comm _ _) rfl, hidx.trans ?_⟩
    · simp only [List.mapIdx_cons, List.singleton_append, Nat.add_zero, Nat.add_assoc, Nat.add_comm 1]
    · simp only [List.length_cons, Nat.add_assoc, Nat.add_comm]

/-- A chunk that holds `bs` is streamed. -/
theorem Accounts.chunkStreamed {bs : List Byte} (h : s.Drawing p) (hlen : bs.length = chunkBytes s.cfg)
    (hread : ∀ i, i < chunkBytes s.cfg → s.draw.scratch.read i = bs[i]?) :
    Accounts s (s.chunkStreamed p) (streamed s.cfg p s.epd.streamIdx bs) [] (bs.flatMap (repack s.cfg p)).length 0 ∧
      (s.chunkStreamed p).epd.streamIdx = s.epd.streamIdx + (bs.flatMap (repack s.cfg p)).length := by
  have hbytes : ((List.range (chunkBytes s.cfg)).map fun i => (s.draw.scratch.read i).getD 0#8) = bs := by
    refine List.ext_getElem (by simp [hlen]) fun i hi hi' => ?_
    rw [List.getElem_map, List.getElem_range, hread i (hlen ▸ hi'), List.getElem?_eq_getElem hi', Option.getD_some]
  have hsent := Accounts.bytesSent h (bs.flatMap (repack s.cfg p))
  rw [← hbytes] at hsent ⊢
  exact hsent

/-! ### The chunks of a pass of an image -/

/-- The bytes of a pass of an image from the address `ptr` on: the plane's in FLASH, or zeros. -/
def passData (two : Bool) (p : Plane) (ptr : U24) (v : Env) (i : Nat) : Byte :=
  if hasPlane two p = true then flashRead v (ptr + BitVec.ofNat 24 i) else 0#8

/-- Where the running pointer of a pass stands after `n` bytes. -/
def passPtr (two : Bool) (p : Plane) (ptr : U24) (n : Nat) : U24 :=
  if hasPlane two p = true then ptr + BitVec.ofNat 24 n else ptr

/-- The FLASH reads of `n` chunks of a pass. -/
def passReads (two : Bool) (p : Plane) (ptr : U24) (size n : Nat) : List (U24 × Nat) :=
  if hasPlane two p = true then (List.range n).map fun j => (ptr + BitVec.ofNat 24 (j * size), size) else []

/-- The bytes `i` to `i + n` of a pass. -/
def dataFrom (data : Nat → Byte) (i n : Nat) : List Byte := (List.range n).map fun j => data (i + j)

theorem dataFrom_add (data : Nat → Byte) (n m : Nat) :
    dataFrom data 0 (n + m) = dataFrom data 0 n ++ dataFrom data n m := by
  simp [dataFrom, List.range_add, Function.comp_def]

theorem length_dataFrom (data : Nat → Byte) (i n : Nat) : (dataFrom data i n).length = n := by simp [dataFrom]

theorem Memory.read_chunk (m : Memory) {bs : List Byte} {i : Nat} (hi : i < bs.length) :
    (m.writeBytes 0 bs).read i = bs[i]? := by
  rw [Memory.read_writeBytes, if_pos ⟨Nat.zero_le _, by omega⟩, Nat.sub_zero]

/-- A chunk is filled with `bs`, and streamed. -/
theorem Accounts.chunkFilled {bs : List Byte} (h : u.Drawing p) (hfill : Accounts s u [] reads 0 0)
    (hidx : u.epd.streamIdx = s.epd.streamIdx) (hcfg : u.cfg = s.cfg) (hlen : bs.length = chunkBytes s.cfg)
    (hscratch : u.draw.scratch = s.draw.scratch.writeBytes 0 bs) :
    Accounts s (u.chunkStreamed p) (streamed s.cfg p s.epd.streamIdx bs) reads (bs.flatMap (repack s.cfg p)).length 0 ∧
      (u.chunkStreamed p).epd.streamIdx = s.epd.streamIdx + (bs.flatMap (repack s.cfg p)).length ∧
      (u.chunkStreamed p).draw = u.draw := by
  rw [← hcfg] at hlen
  obtain ⟨hsent, hlast⟩ := Accounts.chunkStreamed h hlen fun i hi => by
    rw [hscratch]
    exact Memory.read_chunk _ (hlen ▸ hi)
  rw [hidx, hcfg] at hsent hlast
  exact ⟨(hfill.trans hsent).of_eq rfl (List.append_nil _) (Nat.zero_add _) rfl, hlast,
    (EngineOnly.chunkStreamed u p).draw⟩

/-- What chunk `c` of a pass leaves, whose running pointer stands where its first `c` chunks left it. -/
theorem State.ImageDrawing.imageChunk_account {ptr : U24} {c : Nat} (h : s.ImageDrawing p)
    (hptr : s.draw.flashPtr = some (passPtr two p ptr (c * chunkBytes s.cfg))) (bs : List Byte)
    (hbs : bs = dataFrom (passData two p ptr s.env) (c * chunkBytes s.cfg) (chunkBytes s.cfg)) :
    Accounts s (s.imageChunk two p c) (streamed s.cfg p s.epd.streamIdx bs)
        (if hasPlane two p = true then [(ptr + BitVec.ofNat 24 (c * chunkBytes s.cfg), chunkBytes s.cfg)] else [])
        (bs.flatMap (repack s.cfg p)).length 0 ∧
      (s.imageChunk two p c).epd.streamIdx = s.epd.streamIdx + (bs.flatMap (repack s.cfg p)).length ∧
      (s.imageChunk two p c).draw = { s.draw with
        chunkIdx := some c, chunkStartY := some (toU16 (c * s.cfg.linesPerChunk)),
        scratch := s.draw.scratch.writeBytes 0 bs,
        flashPtr := some (passPtr two p ptr ((c + 1) * chunkBytes s.cfg)) } := by
  have hlen : bs.length = chunkBytes s.cfg := by rw [hbs, length_dataFrom]
  by_cases hplane : hasPlane two p = true
  · have hq : passPtr two p ptr (c * chunkBytes s.cfg) = ptr + BitVec.ofNat 24 (c * chunkBytes s.cfg) := if_pos hplane
    have hnext : passPtr two p ptr ((c + 1) * chunkBytes s.cfg) =
        ptr + BitVec.ofNat 24 (c * chunkBytes s.cfg) + BitVec.ofNat 24 (chunkBytes s.cfg) := by
      rw [passPtr, if_pos hplane, Nat.add_one_mul, BitVec.ofNat_add, BitVec.add_assoc]
    have hloaded : bs = (List.range (chunkBytes s.cfg)).map fun i =>
        flashRead s.env (ptr + BitVec.ofNat 24 (c * chunkBytes s.cfg) + BitVec.ofNat 24 i) := by
      simp only [hbs, dataFrom, passData, hplane, if_true, BitVec.ofNat_add, BitVec.add_assoc]
    rw [hq] at hptr
    rw [State.imageChunk_of_plane hplane c hptr, hnext, if_pos hplane]
    generalize ptr + BitVec.ofNat 24 (c * chunkBytes s.cfg) = q at *
    have hread : Accounts s ((s.chunkEntered c).chunkLoaded q) [] [(q, chunkBytes s.cfg)] 0 0 :=
      ⟨[.flashRead q (chunkBytes s.cfg)], rfl, (List.append_nil _).symm, rfl, rfl, rfl⟩
    obtain ⟨hsent, hidx, hdraw⟩ := Accounts.chunkFilled ((h.chunkEntered c).chunkLoaded q) hread rfl rfl hlen
      (by rw [hloaded]; rfl)
    refine ⟨hsent, hidx, hdraw.trans ?_⟩
    rw [hloaded]
    rfl
  · have hnext : passPtr two p ptr ((c + 1) * chunkBytes s.cfg) = passPtr two p ptr (c * chunkBytes s.cfg) := by
      rw [passPtr, passPtr, if_neg hplane, if_neg hplane]
    have hzeros : bs = List.replicate (chunkBytes s.cfg) 0#8 := by
      simp only [hbs, dataFrom, passData, hplane, if_false, Bool.false_eq_true, List.map_const', List.length_range]
    rw [State.imageChunk_of_dummy hplane, hnext, if_neg hplane, ← hptr]
    have hzero : Accounts s (s.chunkEntered c).chunkZeroed [] [] 0 0 :=
      .of_events [] (List.append_nil _).symm rfl rfl rfl
    obtain ⟨hsent, hidx, hdraw⟩ := Accounts.chunkFilled ((h.chunkEntered c).chunkSet _) hzero rfl rfl hlen
      (by rw [hzeros]; rfl)
    refine ⟨hsent, hidx, hdraw.trans ?_⟩
    rw [hzeros]
    rfl

/-- `n` chunks of a pass are done since `s`, at whose running pointer the bytes of the pass begin. -/
structure ChunksDone (two : Bool) (p : Plane) (ptr : U24) (n : Nat) (s t : State) : Prop where
  only : DrawOnly s t
  drawing : t.ImageDrawing p
  account : Accounts s t (streamed s.cfg p s.epd.streamIdx (dataFrom (passData two p ptr s.env) 0 (n * chunkBytes s.cfg)))
    (passReads two p ptr (chunkBytes s.cfg) n)
    ((dataFrom (passData two p ptr s.env) 0 (n * chunkBytes s.cfg)).flatMap (repack s.cfg p)).length 0
  index : t.epd.streamIdx = s.epd.streamIdx +
    ((dataFrom (passData two p ptr s.env) 0 (n * chunkBytes s.cfg)).flatMap (repack s.cfg p)).length
  frame : t.draw = { s.draw with
    chunkIdx := t.draw.chunkIdx, chunkStartY := t.draw.chunkStartY, scratch := t.draw.scratch,
    flashPtr := t.draw.flashPtr }
  pointer : t.draw.flashPtr = some (passPtr two p ptr (n * chunkBytes s.cfg))
  outside : ∀ o, chunkBytes s.cfg ≤ o → t.draw.scratch.read o = s.draw.scratch.read o
  last : ∀ c, n = c + 1 → t.draw.chunkIdx = some c ∧ t.draw.chunkStartY = some (toU16 (c * s.cfg.linesPerChunk)) ∧
    ∀ o, o < chunkBytes s.cfg → t.draw.scratch.read o = some (passData two p ptr s.env (c * chunkBytes s.cfg + o))

theorem ChunksDone.zero {ptr : U24} (h : s.ImageDrawing p) (hptr : s.draw.flashPtr = some ptr) :
    ChunksDone two p ptr 0 s s where
  only := .refl s
  drawing := h
  account := by
    rw [Nat.zero_mul]
    exact (Accounts.refl s).of_eq rfl (by simp [passReads]) rfl rfl
  index := by rw [Nat.zero_mul]; rfl
  frame := rfl
  pointer := by rw [hptr, passPtr]; simp
  outside := fun _ _ => rfl
  last := nofun

theorem passReads_succ (ptr : U24) (size n : Nat) : passReads two p ptr size (n + 1) = passReads two p ptr size n ++
    (if hasPlane two p = true then [(ptr + BitVec.ofNat 24 (n * size), size)] else []) := by
  unfold passReads
  split
  · rw [List.range_succ, List.map_append]
    rfl
  · rfl

theorem ChunksDone.succ {ptr : U24} (h : ChunksDone two p ptr n s t) :
    ChunksDone two p ptr (n + 1) s (t.imageChunk two p n) := by
  obtain ⟨honly, hdrawing, haccount, hidx, hframe, hptr, houtside, -⟩ := h
  rw [← honly.cfg] at hptr
  obtain ⟨hchunk, hidx', hdraw⟩ := hdrawing.imageChunk_account hptr _ rfl
  rw [honly.cfg, honly.env] at hchunk hdraw hidx'
  have hdata : dataFrom (passData two p ptr s.env) 0 ((n + 1) * chunkBytes s.cfg) =
      dataFrom (passData two p ptr s.env) 0 (n * chunkBytes s.cfg) ++
        dataFrom (passData two p ptr s.env) (n * chunkBytes s.cfg) (chunkBytes s.cfg) := by
    rw [Nat.add_one_mul, dataFrom_add]
  have hlen : (dataFrom (passData two p ptr s.env) (n * chunkBytes s.cfg) (chunkBytes s.cfg)).length = chunkBytes s.cfg :=
    length_dataFrom _ _ _
  refine ⟨honly.trans (.imageChunk t two p n), hdrawing.imageChunk two n, ?_, ?_, ?_, ?_, fun o ho => ?_, fun c hc => ?_⟩
  · rw [hidx] at hchunk
    rw [hdata, streamed_append, passReads_succ, List.flatMap_append, List.length_append]
    exact haccount.trans hchunk
  · rw [hidx', hidx, hdata, List.flatMap_append, List.length_append, Nat.add_assoc]
  · rw [hdraw, hframe]
  · rw [hdraw]
  · rw [hdraw, ← houtside o ho]
    exact Memory.read_writeBytes_above _ _ (by omega)
  · obtain rfl : n = c := Nat.succ.inj hc
    rw [hdraw]
    refine ⟨rfl, rfl, fun o ho => ?_⟩
    rw [Memory.read_chunk _ (by omega), List.getElem?_eq_getElem (by omega)]
    simp [dataFrom]

theorem chunksDone {ptr : U24} (h : s.ImageDrawing p) (hptr : s.draw.flashPtr = some ptr) :
    ChunksDone two p ptr s.cfg.numChunks s (s.imageChunks two p) := by
  have hdone (n : Nat) : ChunksDone two p ptr n s ((List.range n).foldl (fun t c => t.imageChunk two p c) s) := by
    induction n with
    | zero => exact .zero h hptr
    | succ n ih =>
      rw [List.range_succ, List.foldl_append]
      exact ih.succ
  exact hdone _

/-! ### The sizes -/

theorem mem_of_lookup {α β : Type} [DecidableEq α] {l : List (α × β)} {key : α} {b : β} (h : lookup l key = some b) :
    (key, b) ∈ l := by
  induction l with
  | nil => exact nomatch h
  | cons e l ih =>
    obtain ⟨a, v⟩ := e
    rw [lookup] at h
    split at h
    · next heq => simp [← heq, Option.some.inj h]
    · exact List.mem_cons_of_mem _ (ih h)

theorem length_repack {c : Params} (h : paramsOk c = true) (p : Plane) (b : Byte) :
    (repack c p b).length = c.nativeBpp := by
  obtain ⟨⟨-, -, -, -, -, -, -, -, hrepack, -⟩, -⟩ := (paramsOk_iff c).1 h
  rw [repack]
  split
  · next bs hfound =>
    exact hrepack _ (mem_of_lookup hfound)
  · rw [List.length_map, List.length_range]

theorem length_flatMap_repack {c : Params} (h : paramsOk c = true) (p : Plane) (bs : List Byte) :
    (bs.flatMap (repack c p)).length = bs.length * c.nativeBpp := by
  simp [List.length_flatMap, length_repack h]

/-- A screen of at least one line is drawn in at least one chunk (R2). -/
theorem exists_numChunks {c : Params} (h : paramsOk c = true) : ∃ n, c.numChunks = n + 1 := by
  obtain ⟨⟨-, -, -, -, -, -, ⟨hscreen, -⟩, -⟩, -, -, -, -, ⟨-, hlines, -⟩, -⟩ := (paramsOk_iff c).1 h
  refine Nat.exists_eq_succ_of_ne_zero fun hzero => ?_
  rw [hzero, Nat.zero_mul] at hlines
  omega

/-! ### The passes of an image -/

/-- The draw context after the chunks of a pass, the last of which stays in the buffer. -/
theorem ChunksDone.draw_eq {ptr : U24} (h : ChunksDone two p ptr s.cfg.numChunks s t) (hcfg : paramsOk s.cfg = true) :
    ∃ scratch, t.draw = { s.draw with
        chunkIdx := some (s.cfg.numChunks - 1),
        chunkStartY := some (BitVec.ofNat 16 ((s.cfg.numChunks - 1) * s.cfg.linesPerChunk)),
        flashPtr := some (passPtr two p ptr (s.cfg.numChunks * chunkBytes s.cfg)), scratch := scratch } ∧
      ∀ o, scratch.read o =
        if o < chunkBytes s.cfg then
          (dataFrom (passData two p ptr s.env) 0 (s.cfg.numChunks * chunkBytes s.cfg))[
            (s.cfg.numChunks - 1) * chunkBytes s.cfg + o]?
        else s.draw.scratch.read o := by
  obtain ⟨c, hc⟩ := exists_numChunks hcfg
  obtain ⟨hidx, htop, hread⟩ := h.last c hc
  have hptr := h.pointer
  refine ⟨t.draw.scratch, ?_, fun o => ?_⟩
  · rw [h.frame, hidx, htop, hptr, hc]
    rfl
  · split
    next ho =>
      have hin : c * chunkBytes s.cfg + o < (c + 1) * chunkBytes s.cfg := by rw [Nat.add_one_mul]; omega
      rw [hread o ho, hc, Nat.add_sub_cancel, List.getElem?_eq_getElem (by rw [length_dataFrom]; exact hin)]
      simp [dataFrom]
    next ho => exact h.outside o (Nat.not_lt.1 ho)

/-- Passes are done since `s`: what they sent, read and streamed, and the draw context they leave, the last chunk of the
bytes `last` in the buffer. -/
structure PassesDone (s t : State) (bytes : List (CtrlSet × ByteKind × Byte)) (reads : List (U24 × Nat)) (n : Nat)
    (p : Plane) (ptr : U24) (last : List Byte) : Prop where
  only : DrawOnly s t
  drawing : t.Drawing p
  account : Accounts s t bytes reads n 0
  draw : ∃ scratch, t.draw = { s.draw with
        passPlane := some p, chunkIdx := some (s.cfg.numChunks - 1),
        chunkStartY := some (BitVec.ofNat 16 ((s.cfg.numChunks - 1) * s.cfg.linesPerChunk)),
        flashPtr := some ptr, scratch := scratch } ∧
      ∀ o, scratch.read o =
        if o < chunkBytes s.cfg then last[(s.cfg.numChunks - 1) * chunkBytes s.cfg + o]? else s.draw.scratch.read o

/-- The bytes of a whole pass. -/
def passImage (two : Bool) (p : Plane) (ptr : U24) (s : State) : List Byte :=
  dataFrom (passData two p ptr s.env) 0 (s.cfg.numChunks * chunkBytes s.cfg)

/-- One pass, whose first byte has index 0. -/
theorem PassesDone.chunks {ptr : U24} (h : s.ImageDrawing p) (hcfg : paramsOk s.cfg = true)
    (hptr : s.draw.flashPtr = some ptr) (hidx : s.epd.streamIdx = 0) :
    PassesDone s (s.imageChunks two p) (streamed s.cfg p 0 (passImage two p ptr s))
      (passReads two p ptr (chunkBytes s.cfg) s.cfg.numChunks) (s.cfg.numChunks * chunkBytes s.cfg * s.cfg.nativeBpp) p
      (passPtr two p ptr (s.cfg.numChunks * chunkBytes s.cfg)) (passImage two p ptr s) := by
  have hdone : ChunksDone two p ptr s.cfg.numChunks s (s.imageChunks two p) := chunksDone h hptr
  refine ⟨hdone.only, hdone.drawing.toDrawing, hdone.account.of_eq (by rw [hidx]; rfl) rfl ?_ rfl, ?_⟩
  · rw [length_flatMap_repack hcfg, length_dataFrom]
  · obtain ⟨scratch, hdraw, hread⟩ := hdone.draw_eq hcfg
    exact ⟨scratch, by rw [hdraw, ← h.plane], hread⟩

/-- A pass after the first starts on a powered panel (R87). -/
theorem Accounts.passStarted {q : Plane} (h : s.Drawing q) (ht : TablesOk s.cfg) :
    Accounts s (s.passStarted p) (entryBytes s.cfg (if p = .accent then s.cfg.cmdDtm2 else s.cfg.cmdDtm1) []) [] 0 0 := by
  have hset : Accounts s (s.passSet p) [] [] 0 0 := .of_events [] (List.append_nil _).symm rfl rfl rfl
  rw [h.passStarted]
  exact hset.trans (Accounts.passBegun (s := s.passSet p) ⟨h.quiet, h.connected, h.ready, ht⟩ p)

/-- A pass after another starts, and is done. -/
theorem PassesDone.next {ptr : U24} {q : Plane} {last : List Byte} (h : PassesDone s t bytes reads n q ptr last)
    (hcfg : paramsOk s.cfg = true) :
    PassesDone s ((t.passStarted p).imageChunks two p) (bytes ++ passBytes s.cfg p (passImage two p ptr s))
      (reads ++ passReads two p ptr (chunkBytes s.cfg) s.cfg.numChunks)
      (n + s.cfg.numChunks * chunkBytes s.cfg * s.cfg.nativeBpp) p
      (passPtr two p ptr (s.cfg.numChunks * chunkBytes s.cfg)) (passImage two p ptr s) := by
  obtain ⟨honly, hdrawing, haccount, scratch, hdraw, hread⟩ := h
  have hptr : t.draw.flashPtr = some ptr := by rw [hdraw]
  have ht : TablesOk t.cfg := by rw [honly.cfg]; exact tablesOk_of_paramsOk hcfg
  have himage : t.ImageDrawing q := ⟨hdrawing, by rw [hptr]; nofun⟩
  have hstarted := himage.passStarted (q := p) ht
  have hset : t.passStarted p = (t.passSet p).passBegun p := hdrawing.passStarted p
  have hdraw' : (t.passStarted p).draw = { t.draw with passPlane := some p } := by
    rw [hset, (EngineOnly.passBegun _ p).draw]
    rfl
  have honly' := DrawOnly.passStarted t p
  have hcfg' : (t.passStarted p).cfg = s.cfg := honly'.cfg.trans honly.cfg
  have henv' : (t.passStarted p).env = s.env := honly'.env.trans honly.env
  have hbegun := Accounts.passStarted (p := p) hdrawing ht
  rw [honly.cfg] at hbegun
  have hdone := PassesDone.chunks (two := two) (ptr := ptr) hstarted (by rw [hcfg']; exact hcfg)
    (by rw [hdraw']; exact hptr) (by rw [hset]; rfl)
  have himage' : passImage two p ptr (t.passStarted p) = passImage two p ptr s := by rw [passImage, hcfg', henv']; rfl
  obtain ⟨honly'', hdrawing', haccount', scratch', hlast, hread'⟩ := hdone
  rw [hcfg'] at hlast
  rw [hcfg', himage'] at haccount' hread'
  refine ⟨(honly.trans honly').trans honly'', hdrawing', ?_, scratch', ?_, fun o => (hread' o).trans ?_⟩
  · refine ((haccount.trans hbegun).trans haccount').of_eq ?_ ?_ rfl rfl
    · rw [passBytes_eq, List.append_assoc]
    · rw [List.append_nil]
  · rw [hlast, hdraw', hdraw]
  · split
    · rfl
    · next ho => rw [hdraw', hdraw]; exact (hread o).trans (if_neg ho)

/-! ### The end of a draw -/

theorem State.refreshed_only : s.refreshed =
    { s with env := s.nextCode.2, epd := s.refreshed.epd, trace := s.refreshed.trace } := by
  have hread : s.refreshRead =
      { s with env := s.nextCode.2, epd := s.refreshRead.epd, trace := s.refreshRead.trace } := by
    conv_lhs => rw [State.refreshRead, PanelOnly.tableSent s (panelTable s.cfg s.cfg.tableRefresh)]
    rfl
  have hdown : s.refreshed = { s.refreshRead with epd := s.refreshed.epd, trace := s.refreshed.trace } := by
    rw [State.refreshed_eq]
    exact PanelOnly.shutDown _
  exact hdown.trans (by rw [hread])

/-- What a whole draw `op` of a live panel leaves of `s`, past its passes (R94 line 22 on, R95 line 16 on). -/
theorem drawEnded {op : Byte} (hop : op ≠ 0x14#8) (honly : DrawOnly s t) (hdrawing : t.Drawing p)
    (hcfg : paramsOk s.cfg = true) (haccount : Accounts s t bytes reads n 0)
    (hu : u = (t.refreshed.nestedReturn 0x15#8 .ok).returned op .ok) :
    (∃ ev, u.trace = s.trace ++ ev ∧
        panelSent ev = s.inFlight ++ bytes ++ tableBytes s.cfg s.cfg.tableRefresh ++
          tableBytes s.cfg s.cfg.tablePowerdown ∧
        flashReads ev = reads ∧ sentBytes ev = n ∧ ev.count .baselineRepower = 1) ∧
      (u.epd.postRefreshBatt = some (adcScale s.cfg s.nextCode.1) ∧ u.epd.epdPowered = false ∧ u.epd.spiBusy = false) ∧
      u = { s with
        env := s.nextCode.2, epd := u.epd, draw := t.draw, res := { t.res with status := some .ok }, trace := u.trace,
        hostPos := .idle } := by
  have hready : t.BusReady := hdrawing.busReady (by rw [honly.cfg]; exact tablesOk_of_paramsOk hcfg)
  have hcode : t.nextCode = s.nextCode := by simp only [State.nextCode, honly.env]
  have hpowered := State.refreshRead_epdPowered.trans hdrawing.powered
  have hrefreshed := Accounts.refreshed hready hdrawing.powered
  rw [honly.cfg] at hrefreshed
  have htrace : u.trace = t.refreshed.trace ++ [.result 0x15#8 .ok, .result op .ok] := by
    rw [hu]
    exact List.append_assoc _ _ _
  have hreturn : Accounts t.refreshed u [] [] 0 0 :=
    (Accounts.of_events _ htrace (by rw [hu]; rfl) rfl rfl).of_eq rfl rfl (by simp [sentBytes, hop]) rfl
  obtain ⟨hoff, hbatt⟩ := State.shutDown_epd hpowered
  have hidle := hready.refreshRead.shutDown_inFlight hpowered
  rw [← State.refreshed_eq] at hoff hbatt hidle
  have hepd : u.epd = t.refreshed.epd := by rw [hu]; rfl
  refine ⟨?_, ⟨?_, ?_, ?_⟩, ?_⟩
  · obtain ⟨ev, htrace, hsent, hreads, hn, hk⟩ := (haccount.trans hrefreshed).trans hreturn
    have hflight : u.inFlight = [] := State.inFlight_of_idle (by rw [hepd]; exact hidle)
    refine ⟨ev, htrace, ?_, by rw [hreads]; simp, hn, hk⟩
    rw [hflight, List.append_nil, List.append_nil] at hsent
    rw [hsent]
    simp only [List.append_assoc]
  · rw [hepd, hbatt, ← hcode, ← honly.cfg]
    rfl
  · rw [hepd, hoff]
  · rw [hepd, hidle]
  · subst hu
    rw [State.refreshed_only, hcode, State.returned, State.nestedReturn]
    unfold DrawOnly at honly
    rw [honly]

/-! ### A whole image -/

theorem passImage_of_plane (h : hasPlane two p = true) (ptr : U24) : passImage two p ptr s = planeBytes s ptr := by
  simp only [passImage, dataFrom, passData, h, if_true, Nat.zero_add, planeBytes]

theorem passImage_of_dummy (h : ¬hasPlane two p = true) (ptr : U24) : passImage two p ptr s = zeroBytes s := by
  simp only [passImage, dataFrom, passData, h, if_false, zeroBytes, List.map_const', List.length_range,
    Bool.false_eq_true]

theorem passPtr_of_plane (h : hasPlane two p = true) (ptr : U24) (n : Nat) :
    passPtr two p ptr n = ptr + BitVec.ofNat 24 n := if_pos h

theorem passPtr_of_dummy (h : ¬hasPlane two p = true) (ptr : U24) (n : Nat) : passPtr two p ptr n = ptr := if_neg h

theorem passReads_of_plane (h : hasPlane two p = true) (ptr : U24) (size n : Nat) :
    passReads two p ptr size n = (List.range n).map fun j => (ptr + BitVec.ofNat 24 (j * size), size) := if_pos h

theorem passReads_of_dummy (h : ¬hasPlane two p = true) (ptr : U24) (size n : Nat) : passReads two p ptr size n = [] :=
  if_neg h

theorem PassesDone.of_eq {ptr ptr' : U24} {last : List Byte} (h : PassesDone s t bytes reads n p ptr last)
    (hreads : reads = further) (hn : n = m) (hptr : ptr = ptr') : PassesDone s t bytes further m p ptr' last := by
  subst hreads hn hptr
  exact h

theorem length_planeBytes (ptr : U24) : (planeBytes s ptr).length = s.cfg.numChunks * chunkBytes s.cfg := by
  rw [planeBytes, List.length_map, List.length_range]

/-- The bytes of the accent pass of an image whose first plane begins at `ptr` (R94 lines 15 to 20). -/
def secondPlane (two : Bool) (ptr : U24) (s : State) : List Byte :=
  if two = true then planeBytes s (ptr + BitVec.ofNat 24 (s.cfg.numChunks * chunkBytes s.cfg)) else zeroBytes s

/-- Whether the accent pass runs (R94 line 10). -/
def accentRuns (two : Bool) (s : State) : Bool := two || s.cfg.alwaysBothPasses

/-- How many planes an image has. -/
def planesOf (two : Bool) : Nat := if two = true then 2 else 1

theorem imagePasses_done {ptr : U24} (h : s.ImageDrawing .mono) (hcfg : paramsOk s.cfg = true)
    (hptr : s.draw.flashPtr = some ptr) (hidx : s.epd.streamIdx = 0) :
    PassesDone s (s.imagePasses two .mono)
      (streamed s.cfg .mono 0 (planeBytes s ptr) ++
        if accentRuns two s = true then passBytes s.cfg .accent (secondPlane two ptr s) else [])
      ((List.range (planesOf two * s.cfg.numChunks)).map fun j =>
        (ptr + BitVec.ofNat 24 (j * chunkBytes s.cfg), chunkBytes s.cfg))
      ((if accentRuns two s = true then 2 else 1) * s.cfg.numChunks * chunkBytes s.cfg * s.cfg.nativeBpp)
      (if accentRuns two s = true then .accent else .mono)
      (ptr + BitVec.ofNat 24 (planesOf two * s.cfg.numChunks * chunkBytes s.cfg))
      (if accentRuns two s = true then secondPlane two ptr s else planeBytes s ptr) := by
  have hmono : hasPlane two .mono = true := by cases two <;> rfl
  have hfirst := PassesDone.chunks (two := two) h hcfg hptr hidx
  have hcfg' : (s.imageChunks two .mono).cfg = s.cfg := (DrawOnly.imageChunks s two .mono).cfg
  have hlast : s.imagePasses two .mono = (s.imageChunks two .mono).imagePass two .accent := rfl
  rw [passImage_of_plane hmono, passPtr_of_plane hmono, passReads_of_plane hmono] at hfirst
  rw [hlast]
  cases two with
  | true =>
    have hsecond := hfirst.next (two := true) (p := .accent) hcfg
    rw [passImage_of_plane rfl, passPtr_of_plane rfl, passReads_of_plane rfl] at hsecond
    rw [State.imagePass_of_runs (by nofun)]
    refine hsecond.of_eq ?_ ?_ ?_
    · simp only [planesOf, if_true, Nat.two_mul, List.range_add, List.map_append, List.map_map, Function.comp_def,
        Nat.add_mul, BitVec.ofNat_add, BitVec.add_assoc]
    · simp only [accentRuns, Bool.true_or, if_true, Nat.two_mul, Nat.add_mul]
    · simp only [planesOf, if_true, Nat.two_mul, Nat.add_mul, BitVec.ofNat_add, BitVec.add_assoc]
  | false =>
    by_cases hboth : s.cfg.alwaysBothPasses = true
    · have hsecond := hfirst.next (two := false) (p := .accent) hcfg
      have hdummy : ¬hasPlane false .accent = true := by decide
      rw [passImage_of_dummy hdummy, passPtr_of_dummy hdummy, passReads_of_dummy hdummy, List.append_nil] at hsecond
      have hruns : accentRuns false s = true := hboth
      rw [State.imagePass_of_runs (by rw [hcfg', hboth]; nofun)]
      simp only [hruns, if_true]
      refine hsecond.of_eq ?_ ?_ ?_
      · simp [planesOf]
      · simp only [Nat.two_mul, Nat.add_mul]
      · simp [planesOf]
    · have hruns : accentRuns false s = false := Bool.eq_false_iff.2 hboth
      rw [State.imagePass_of_skipped ⟨rfl, by rw [hcfg']; exact Bool.eq_false_iff.2 hboth⟩]
      simp only [hruns, if_false, Bool.false_eq_true, List.append_nil]
      refine hfirst.of_eq ?_ ?_ ?_
      · simp [planesOf]
      · simp only [Nat.one_mul]
      · simp [planesOf]

/-- A panel is powered up if needed, and the first pass of a draw starts (R85, R87). -/
theorem passStarted_account (h : s.DrawReady) :
    Accounts s (s.passStarted p) ((if s.epd.epdPowered = true then [] else powerUpBytes s.cfg) ++
      entryBytes s.cfg (if p = .accent then s.cfg.cmdDtm2 else s.cfg.cmdDtm1) []) [] 0 0 := by
  have hready : (s.passSet p).DrawReady := h.of_eq rfl rfl rfl
  have hset : Accounts s (s.passSet p) [] [] 0 0 := .of_events [] (List.append_nil _).symm rfl rfl rfl
  have hup := Accounts.poweredUp hready.quiet hready.ready (tablesOk_of_paramsOk hready.params)
  have hleft : (s.passSet p).poweredUp.BusReady := by
    rw [State.poweredUp]
    split
    next hp => exact ⟨hready.quiet, hready.connected hp, hready.ready, tablesOk_of_paramsOk hready.params⟩
    next => exact hready.railUp.programmedFrom .line8
  have hbegun := Accounts.passBegun hleft p
  rw [(PanelOnly.poweredUp _).cfg] at hbegun
  exact (hset.trans hup).trans hbegun

/-- The first pass of an image is under way (R94 lines 2 to 12). -/
theorem State.DrawReady.imageStarted {addr : U24} {t : State} (h : s.DrawReady) (hlive : s.cfg.assumePanelLive = true)
    (ht : t = (s.imageBegun addr).passStarted .mono) :
    t.ImageDrawing .mono ∧ DrawOnly s t ∧ t.epd.streamIdx = 0 ∧
      t.draw = { s.ctxReset.draw with flashPtr := some (addr + 1#24) } ∧
      Accounts s t ((if s.epd.epdPowered = true then [] else powerUpBytes s.cfg) ++ entryBytes s.cfg s.cfg.cmdDtm1 [])
        [(addr, 1)] 0 0 := by
  subst ht
  have hready : ((s.imageBegun addr).passSet .mono).DrawReady := h.of_eq rfl rfl rfl
  have hleaves := PowerLeaves.powerEnd hready
  rw [State.powerEnd_of_live (by exact hlive)] at hleaves
  have honly : DrawOnly s (s.imageBegun addr) := rfl
  have hread : Accounts s (s.imageBegun addr) [] [(addr, 1)] 0 0 :=
    ⟨[.flashRead addr 1], rfl, (List.append_nil _).symm, rfl, rfl, rfl⟩
  refine ⟨hleaves.imageDrawing rfl rfl nofun (chunk_fits hready.params), honly.trans (.passStarted _ _), rfl, ?_,
    hread.trans (passStarted_account (p := .mono) (s := s.imageBegun addr) (h.of_eq rfl rfl rfl))⟩
  exact (EngineOnly.passBegun _ .mono).draw.trans hleaves.draw

/-- What CLIENT_DRAW_IMAGE of a supported tag sends, reads and leaves in the draw context, up to its refresh. -/
theorem State.DrawReady.imageDone {addr : U24} (h : s.DrawReady) (hlive : s.cfg.assumePanelLive = true)
    (ht : t = ((s.imageBegun addr).passStarted .mono).imagePasses two .mono) :
    DrawOnly s t ∧ (∃ q, t.Drawing q) ∧
      Accounts s t ((if s.epd.epdPowered = true then [] else powerUpBytes s.cfg) ++
          (passBytes s.cfg .mono (planeBytes s (addr + 1#24)) ++
            if accentRuns two s = true then passBytes s.cfg .accent (secondPlane two (addr + 1#24) s) else []))
        ((addr, 1) :: (List.range (planesOf two * s.cfg.numChunks)).map fun j =>
          (addr + 1#24 + BitVec.ofNat 24 (j * chunkBytes s.cfg), chunkBytes s.cfg))
        ((if accentRuns two s = true then 2 else 1) * s.cfg.numChunks * chunkBytes s.cfg * s.cfg.nativeBpp) 0 ∧
      ∃ scratch, t.draw = { s.ctxReset.draw with
          passPlane := some (if accentRuns two s = true then .accent else .mono),
          chunkIdx := some (s.cfg.numChunks - 1),
          chunkStartY := some (BitVec.ofNat 16 ((s.cfg.numChunks - 1) * s.cfg.linesPerChunk)),
          flashPtr := some (addr + 1#24 + BitVec.ofNat 24 (planesOf two * s.cfg.numChunks * chunkBytes s.cfg)),
          scratch := scratch } ∧
        ∀ o, scratch.read o =
          if o < chunkBytes s.cfg then
            (if accentRuns two s = true then secondPlane two (addr + 1#24) s else planeBytes s (addr + 1#24))[
              (s.cfg.numChunks - 1) * chunkBytes s.cfg + o]?
          else none := by
  obtain ⟨himage, honly, hidx, hdraw, hstart⟩ := h.imageStarted hlive (addr := addr) rfl
  have hdone := imagePasses_done (two := two) himage (by rw [honly.cfg]; exact h.params) (by rw [hdraw]) hidx
  have hsecond : secondPlane two (addr + 1#24) ((s.imageBegun addr).passStarted .mono) =
      secondPlane two (addr + 1#24) s := by
    simp only [secondPlane, planeBytes, zeroBytes, honly.cfg, honly.env]
  have hfirst : planeBytes ((s.imageBegun addr).passStarted .mono) (addr + 1#24) = planeBytes s (addr + 1#24) := by
    simp only [planeBytes, honly.cfg, honly.env]
  have hruns : accentRuns two ((s.imageBegun addr).passStarted .mono) = accentRuns two s := by
    rw [accentRuns, honly.cfg]
    rfl
  rw [hsecond, hfirst, hruns, honly.cfg, ← ht] at hdone
  obtain ⟨honly', hdrawing, haccount, scratch, hlast, hread⟩ := hdone
  rw [honly.cfg] at hlast hread
  refine ⟨honly.trans honly', ⟨_, hdrawing⟩, (hstart.trans haccount).of_eq ?_ rfl (Nat.zero_add _) rfl, scratch, ?_,
    fun o => (hread o).trans ?_⟩
  · simp only [passBytes_mono, List.append_assoc]
  · rw [hlast, hdraw]
  · rw [hdraw]
    rfl

end Sys2Proof.Machine

namespace Sys2Proof

open Sys2Proof.Machine

/-- Settles O51: the draw runs to its closed form, and the accounts of its parts add up. -/
theorem drawImageStreamsThePlanes : Obligations.DrawImageStreamsThePlanes := by
  have hready {s : State} (hq : s.Quiet) (hcfg : paramsOk s.cfg = true) (hb : s.env.busy = []) (hr : s.ShifterReady)
      (hc : s.epd.epdPowered = true → s.epd.spiConnected = true) : s.DrawReady := ⟨hq, hr, hc, hcfg, hb⟩
  refine ⟨fun s => drawCtxReset_run, fun s addr tag planes first second accentPass hq hpacked hcfg hlive hb hr hc htag
    hplanes hfirst hsecond haccent => ?_, fun s addr tag hq hpacked hcfg hlive hb hr hc htag hsupported => ?_,
    fun s two p w ptr hs hpos hb hcfg hc hplane hptr => ?_⟩
  · obtain ⟨two, htwo, hsupported, hcount⟩ : ∃ two, two = decide (tag = s.cfg.type2bpp) ∧
        (tag = s.cfg.type2bpp ∨ tag = s.cfg.type1bpp) ∧ planes = planesOf two := by
      obtain ⟨heq, rfl⟩ | ⟨heq, hne, rfl⟩ := hplanes
      · exact ⟨true, by simp [heq], .inl heq, rfl⟩
      · exact ⟨false, by simp [hne], .inr heq, rfl⟩
    have hdecide : decide (planes = 2) = two := by rw [hcount]; cases two <;> rfl
    have hif {α : Type} (a b : α) : (if planes = 2 then a else b) = if two = true then a else b := by
      rw [← hdecide]; simp
    rw [hdecide] at haccent ⊢
    rw [hif, hfirst, length_planeBytes] at hsecond
    subst htag hcount hfirst
    have hdraw := hready hq hcfg hb hr hc
    have hexec := Runs.exec (i := .clientDrawImage addr) (runs_clientDrawImage hdraw hpacked hsupported htwo) hq
    have hend : exec (.clientDrawImage addr) s = .next (State.returned 0x20#8 .ok (s.imageDrawn addr two)) := by
      have hcfg' : ((s.imageBegun addr).passStarted .mono).cfg = s.cfg := (DrawOnly.passStarted _ .mono).cfg
      refine hexec.trans (congrArg _ ?_)
      rw [State.powerEnd_of_live (by exact hlive)]
      exact ended_imageResult_of_live (s := (s.imageBegun addr).passStarted .mono) (by rw [hcfg']; exact hlive)
    obtain ⟨honly, ⟨q, hdrawing⟩, haccount, hcontext⟩ := hdraw.imageDone (two := two) (addr := addr) hlive rfl
    obtain ⟨u, hu⟩ : ∃ u, u = State.returned 0x20#8 .ok (s.imageDrawn addr two) := ⟨_, rfl⟩
    rw [← hu] at hend ⊢
    obtain ⟨⟨ev, htrace, hsent, hreads, hn, hk⟩, ⟨hbatt, hoff, hidle⟩, hframe⟩ :=
      drawEnded (by decide) honly hdrawing hcfg haccount hu
    have hdrawn := congrArg State.draw hframe
    subst haccent hsecond
    refine ⟨u, ev, hend, rfl, htrace, ?_, hreads, hn, hk, hbatt, by rw [hframe], hoff, hidle, ?_, by rw [hframe],
      by rw [hframe], by rw [hframe], by rw [hframe], by rw [hframe], by rw [hframe], by rw [hframe], by rw [hframe],
      by rw [hframe], by rw [hframe], by rw [hframe]⟩
    · rw [hsent, State.drawBytes]
      simp only [List.append_assoc]
      rfl
    · rw [hdrawn]
      exact hcontext
  · subst htag
    have hexec := Runs.exec (i := .clientDrawImage addr)
      (runs_clientDrawImage (hready hq hcfg hb hr hc) hpacked hsupported rfl) hq
    refine hexec.trans (congrArg _ ?_)
    have hcfg' := (PowerLeaves.powerEnd (s := (s.imageBegun addr).passSet .mono)
      ((hready hq hcfg hb hr hc).of_eq rfl rfl rfl)).cfg
    rw [State.powerEnd_of_free (by exact hlive)] at hcfg' ⊢
    exact ended_imageStart_of_free (by rw [hcfg']; exact hlive)
  · have hhold : s.hostPos.IsHold := by rw [hpos]; exact ⟨nofun, nofun⟩
    have hbus := hs.busReady hc hcfg
    have hrun := runs_imageHeld (two := two) (w := w) hbus hb hcfg hplane (by rw [hptr]; nofun)
    have hstep : step s = .next (ended 0x20#8 (poweredThen (.drawImage two p)
        (fun t => imageResult two p (t.passBegun p)) (s.powerEndFrom w))) := by
      rw [Runs.step_held hs hhold (r := _) (by rw [hpos]; exact hrun), hpos]
      rfl
    refine ⟨fun hlive => hstep.trans (congrArg _ ?_), fun hlive => hstep.trans (congrArg _ ?_)⟩
    · rw [State.powerEndFrom, if_pos hlive]
      refine ended_imageResult_of_live ?_
      rw [(EngineOnly.passBegun _ p).cfg, (PanelOnly.programmedFrom w s).cfg]
      exact hlive
    · have hfree : s.powerEndFrom w = s.freeFrom w := if_neg (Bool.eq_false_iff.1 hlive)
      have hcfg' := (PowerLeaves.freeFrom hbus w).cfg
      rw [hfree]
      exact ended_imageStart_of_free (by rw [hcfg']; exact hlive)

end Sys2Proof

/-! PROOF. CLIENT_DRAW_SCREEN with no other agent scheduled: a callback's words, the scanlines, chunks and passes, and its
ends, of a live panel and of one that is not, and from a hold (R91, R93, R95, R114). -/

namespace Sys2Proof.Machine

variable {α : Type} {s t u : State} {p : Plane} {cb : Byte} {c l : Nat} {w : Word}

/-! ### What a compositing primitive keeps -/

/-- What the callback's words keep of the block: only the draw context, the results and the trace may change, and neither
the pass, the chunk, nor what is written in the buffer is lost (R96). -/
structure State.ChunkKept (s t : State) : Prop where
  env : t.env = s.env
  cfg : t.cfg = s.cfg
  epd : t.epd = s.epd
  plane : t.draw.passPlane = s.draw.passPlane
  top : t.draw.chunkStartY = s.draw.chunkStartY
  ink : s.InkKept t

theorem State.ChunkKept.refl (s : State) : s.ChunkKept s := ⟨rfl, rfl, rfl, rfl, rfl, s.inkKept_refl⟩

theorem State.InkKept.trans (h : s.InkKept t) (h' : t.InkKept u) : s.InkKept u := by
  intro o b hb
  obtain ⟨c, hc, hor⟩ := h o b hb
  obtain ⟨d, hd, hor'⟩ := h' o c hc
  exact ⟨d, hd, by rw [← hor', ← BitVec.or_assoc, hor]⟩

theorem State.ChunkKept.trans (h : s.ChunkKept t) (h' : t.ChunkKept u) : s.ChunkKept u :=
  ⟨h'.env.trans h.env, h'.cfg.trans h.cfg, h'.epd.trans h.epd, h'.plane.trans h.plane, h'.top.trans h.top,
    h.ink.trans h'.ink⟩

/-- The stops of a compositing primitive: it does not hold (R114). -/
def noHold : Stop → State → Prop
  | .hold _, _ => False
  | .fault _, _ | .refuse _, _ => True

theorem State.chunkKept_writes (hq : s.Quiet) : InkWrites noHold s.ChunkKept where
  fault := fun _ _ _ _ => trivial
  emit := fun _ _ h => { h with }
  refuse := fun _ _ _ => trivial
  pos := fun _ _ h => { h with }
  status := fun _ _ h => { h with }
  outside := fun _ _ h => { h with }
  tick := fun t ht => by
    rw [tick_run_quiet ((congrArg Env.sched ht.env).trans hq)]
    exact ht
  compose := fun t f hf h => by
    obtain ⟨hscratch, hplane, htop⟩ := hf t.draw
    exact { h with
      plane := hplane.trans h.plane, top := htop.trans h.top,
      ink := by rw [State.InkKept, State.onDraw_draw, hscratch]; exact h.ink }
  ink := fun _ _ _ m _ hb h => { h with ink := h.ink.ink m hb }

/-! ### A callback's word -/

theorem opcodeOf_of_decode {i : Instr} (h : decode w = .ok i) : opcodeOf w = i.opcode := by
  obtain ⟨-, -, hop⟩ := encodeOfDecode w i h
  exact hop.symm

theorem issuePrimitive_eq {i : Instr} (hi : i.drawOnly = true) : issuePrimitive w i = issue i.opcode (commandBody i) := by
  cases i with
  | clientSetWindowX | clientSetWindowY | clientLoadRawBitmap | clientPrintBegin | clientWriteChar | clientPrintEnd
  | clientPrintBarcode => rfl
  | _ => nomatch hi

/-- A word that decodes to a compositing primitive is issued as it (R95 lines 12 and 13). -/
theorem runs_callbackWord {i : Instr} (hdecode : decode w = .ok i) (hi : i.drawOnly = true)
    (h : Runs (issue i.opcode (commandBody i)) s (.ok () t)) : Runs (callbackWord w) s (.ok () t) := by
  have hge : 0x22 ≤ i.opcode.toNat := of_decide_eq_true hi
  have hle : i.opcode.toNat ≤ 0x28 := by cases i <;> simp [Instr.opcode]
  have hop : ¬((opcodeOf w).toNat < 0x22 ∨ 0x28 < (opcodeOf w).toNat) := by
    rw [opcodeOf_of_decode hdecode]
    omega
  rw [← issuePrimitive_eq (w := w) hi] at h
  refine .line <| .ite_neg hop <| .line ?_
  rw [hdecode]
  exact h

/-- A word that `State.wordIssued` runs. -/
theorem runs_of_wordIssued (hq : s.Quiet) (h : s.wordIssued w = some t) :
    Runs (callbackWord w) s (.ok () t) ∧ s.ChunkKept t := by
  rw [State.wordIssued] at h
  split at h
  · exact nomatch h
  · next i hdecode =>
    rw [exec_eq] at h
    dsimp only at h
    split at h
    · next hmarks =>
      obtain ⟨hi, hfault, hrefuse⟩ := hmarks
      have hleads := (State.chunkKept_writes hq).commandBody hi _
        (show s.ChunkKept (s.withHostPos (.line i.opcode 1)) from { State.ChunkKept.refl s with })
      obtain rfl := Option.some.inj h
      cases hrun : (commandBody i).run (s.withHostPos (.line i.opcode 1)) with
      | ok st u =>
        rw [hrun] at hleads
        rw [runCommand_returned hrun]
        have hkept : s.ChunkKept u := hleads
        refine ⟨runs_callbackWord hdecode hi <| .of_run (fun _ => ?_) fun _ p => ?_, { hkept with }⟩
        · exact (congrArg Env.sched hkept.env).trans hq
        · exact issue_run_ok (s := s.withHostPos p) hrun
      | error e u =>
        rw [hrun] at hleads
        cases e with
        | fault f => rw [runCommand_faulted hrun] at hfault; exact nomatch hfault
        | refuse x => rw [runCommand_refused hrun] at hrefuse; exact nomatch hrefuse
        | hold q => exact hleads.elim
    · exact nomatch h

/-! ### Scanlines and chunks -/

/-- A chunk has at least one line (R2). -/
theorem exists_linesPerChunk {c : Params} (h : paramsOk c = true) : ∃ n, c.linesPerChunk = n + 1 := by
  obtain ⟨⟨-, -, -, -, -, -, ⟨hscreen, -⟩, -⟩, -, -, -, -, ⟨-, hlines, -⟩, -⟩ := (paramsOk_iff c).1 h
  refine Nat.exists_eq_succ_of_ne_zero fun hzero => ?_
  rw [hzero, Nat.mul_zero] at hlines
  omega

/-- Steps that each run to the state that `f` gives, one after the other. -/
theorem runs_runAll {P : State → Prop} {f : α → State → Option State} {body : α → M Unit}
    (hbody : ∀ a s t, P s → f a s = some t → Runs (body a) s (.ok () t) ∧ P t) (as : List α) (hs : P s)
    (h : runAll f as s = some t) : Runs (forEach body as) s (.ok () t) ∧ P t := by
  induction as generalizing s with
  | nil =>
    obtain rfl := Option.some.inj h
    exact ⟨.pure (), hs⟩
  | cons a as ih =>
    obtain ⟨u, hu, hrest⟩ := Option.bind_eq_some_iff.1 h
    obtain ⟨hfirst, hnext⟩ := hbody a s u hs hu
    obtain ⟨hlast, ht⟩ := ih hnext hrest
    exact ⟨hfirst.seq hlast, ht⟩

/-- The host calls back for one scanline. -/
def State.lineBegun (s : State) : State := s.onDraw fun d => { d with drawing := true }

/-- The callback's words of one scanline are done. -/
def State.lineEnded (s : State) : State := s.onDraw fun d => { d with drawing := false }

theorem runs_screenLine {top : U16} (htop : s.draw.chunkStartY = some top)
    (hwords : Runs (forEach (fun w => Machine.atLine 0x21#8 11 >>= fun _ => callbackWord w)
      (callbackWords s.cfg cb (top.toNat + l) c p)) s.lineBegun (.ok () t)) :
    Runs (screenLine cb p c l) s (.ok () t.lineEnded) :=
  .line <| .update <| .get_bind <| .readReg htop <| (hwords.seq (.atLine _ _)).seq <| .line .write

theorem runs_screenChunk (h : s.Drawing p)
    (hlines : Runs (forEach (fun l => Machine.atLine 0x21#8 9 >>= fun _ => screenLine cb p c l)
      (List.range s.cfg.linesPerChunk)) (s.chunkEntered c).chunkZeroed (.ok () u))
    (hkept : (s.chunkEntered c).chunkZeroed.ChunkKept u) :
    Runs (screenChunk cb p c) s (.ok () (u.chunkStreamed p)) ∧ (u.chunkStreamed p).Drawing p := by
  have hdrawing : u.Drawing p := ((h.chunkEntered c).chunkSet _).of_eq hkept.epd hkept.cfg hkept.env hkept.plane
  have hfilled : ∀ i, i < chunkBytes u.cfg → u.draw.scratch.read i ≠ none := by
    intro i hi
    rw [hkept.cfg] at hi
    obtain ⟨b, hb⟩ := Option.ne_none_iff_exists'.1 (chunkSet_filled (s := s.chunkEntered c) List.length_replicate i hi)
    obtain ⟨b', hb', -⟩ := hkept.ink i b hb
    rw [hb']
    nofun
  exact ⟨.line <| (Runs.get_bind .write).seq <| .line <| (runs_zeroChunk (by exact h.fits)).seq <| .get_bind <|
    (hlines.seq (.atLine _ _)).seq <| .line <| runs_streamChunk hdrawing hfilled, hdrawing.chunkStreamed⟩

theorem runs_lineDrawn {top : U16} (hq : s.Quiet) (htop : s.draw.chunkStartY = some top) (hkept : s.ChunkKept t)
    (h : State.lineDrawn cb p c l t = some u) : Runs (screenLine cb p c l) t (.ok () u) ∧ s.ChunkKept u := by
  have htop' : t.draw.chunkStartY = some top := hkept.top.trans htop
  rw [State.lineDrawn, htop', Option.getD_some] at h
  obtain ⟨v, hv, rfl⟩ := Option.map_eq_some_iff.1 h
  obtain ⟨hruns, hlast⟩ := runs_runAll (P := fun v => s.ChunkKept v)
    (body := fun w => Machine.atLine 0x21#8 11 >>= fun _ => callbackWord w) (fun w a b ha hb => by
      obtain ⟨hword, hnext⟩ := runs_of_wordIssued ((congrArg Env.sched ha.env).trans hq) hb
      exact ⟨.line hword, ha.trans hnext⟩) _ (s := t.lineBegun) { hkept with } hv
  exact ⟨runs_screenLine htop' hruns, { hlast with }⟩

/-- A pass of a screen is under way: only what its chunks write has changed since `s`. -/
structure ScreenKept (p : Plane) (s t : State) : Prop where
  drawing : t.Drawing p
  env : t.env = s.env
  cfg : t.cfg = s.cfg

theorem ScreenKept.refl (h : s.Drawing p) : ScreenKept p s s := ⟨h, rfl, rfl⟩

theorem ScreenKept.trans {q : Plane} (h : ScreenKept p s t) (h' : ScreenKept q t u) : ScreenKept q s u :=
  ⟨h'.drawing, h'.env.trans h.env, h'.cfg.trans h.cfg⟩

theorem runs_chunkDrawn (h : s.Drawing p) (hdrawn : State.chunkDrawn cb p c s = some t) :
    Runs (screenChunk cb p c) s (.ok () t) ∧ ScreenKept p s t := by
  obtain ⟨u, hu, rfl⟩ := Option.map_eq_some_iff.1 hdrawn
  obtain ⟨hlines, hkept⟩ := runs_runAll (P := fun v => (s.chunkEntered c).chunkZeroed.ChunkKept v)
    (body := fun l => Machine.atLine 0x21#8 9 >>= fun _ => screenLine cb p c l) (fun l a b ha hb => by
      obtain ⟨hline, hnext⟩ := runs_lineDrawn (by exact h.quiet) rfl ha hb
      exact ⟨.line hline, hnext⟩) _ (State.ChunkKept.refl _) hu
  obtain ⟨hruns, hdrawing⟩ := runs_screenChunk h hlines hkept
  have honly := EngineOnly.chunkStreamed u p
  exact ⟨hruns, hdrawing, honly.env.trans hkept.env, honly.cfg.trans hkept.cfg⟩

theorem runs_screenChunks (h : s.Drawing p) (hdrawn : State.screenChunks cb p s = some t) :
    Runs (screenChunks cb p) s (.ok () t) ∧ ScreenKept p s t := by
  obtain ⟨hruns, hkept⟩ := runs_runAll (P := ScreenKept p s)
    (body := fun c => Machine.atLine 0x21#8 6 >>= fun _ => screenChunk cb p c) (fun c a b ha hb => by
      obtain ⟨hchunk, hnext⟩ := runs_chunkDrawn ha.drawing hb
      exact ⟨.line hchunk, ha.trans hnext⟩) _ (.refl h) hdrawn
  exact ⟨.get_bind <| hruns.seq (.atLine _ _), hkept⟩

/-! ### The passes and the end -/

/-- How a screen draw ends from its last chunk on. -/
def screenResult (s : State) : EStateM.Result Stop State Status :=
  refreshThen .drawScreen (fun t => .ok .ok (t.nestedReturn 0x15#8 .ok)) s.refreshEnd

section Passes

variable (hcfg : paramsOk s.cfg = true) (hb : s.env.busy = [])
include hcfg hb

theorem runs_screenEnd (h : s.Drawing p) : Runs screenEnd s (screenResult s) := runs_drawEnd h hcfg hb _ _ _ _ _

/-- The second pass, whose chunks leave `t`, and the end (R95 lines 3 to 17). -/
theorem runs_screenLast (h : s.Drawing p) (hchunks : Runs (screenChunks cb .accent) (s.passStarted .accent) (.ok () t))
    (hkept : ScreenKept .accent (s.passStarted .accent) t) :
    Runs (screenPass cb .accent >>= fun _ => screenEnd) s (screenResult t) := by
  have honly := DrawOnly.passStarted s .accent
  have hpass : Runs (screenPass cb .accent) s (.ok () t) :=
    .line <| .line <| .update <| .line <| (h.issueStart (tablesOk_of_paramsOk hcfg)).seq hchunks
  exact hpass.seq <| runs_screenEnd (by rw [hkept.cfg, honly.cfg]; exact hcfg) (by rw [hkept.env, honly.env]; exact hb)
    hkept.drawing

end Passes

/-- Both passes from the chunks of the first on (R95 lines 6 to 17). -/
theorem runs_screenBoth (hcfg : paramsOk s.cfg = true) (hb : s.env.busy = [])
    (hfirst : Runs (screenChunks cb .mono) s (.ok () u)) (hkept : ScreenKept .mono s u)
    (hsecond : Runs (screenChunks cb .accent) (u.passStarted .accent) (.ok () t))
    (hkept' : ScreenKept .accent (u.passStarted .accent) t) :
    Runs (screenAfterStart cb .mono) s (screenResult t) :=
  hfirst.seq <| runs_screenLast (by rw [hkept.cfg]; exact hcfg) (by rw [hkept.env]; exact hb) hkept.drawing hsecond hkept'

/-- A draw whose callback's words all end with a status, from the chunks of pass `p` on. -/
theorem runs_screenAfterStart (h : s.Drawing p) (hcfg : paramsOk s.cfg = true) (hb : s.env.busy = [])
    (hdrawn : s.screenPasses cb p = some t) : Runs (screenAfterStart cb p) s (screenResult t) ∧ t.cfg = s.cfg := by
  cases p with
  | mono =>
    obtain ⟨u, hu, ht⟩ := Option.bind_eq_some_iff.1 hdrawn
    obtain ⟨hfirst, hkept⟩ := runs_screenChunks h hu
    have honly := DrawOnly.passStarted u .accent
    have hstarted : (u.passStarted .accent).Drawing .accent :=
      hkept.drawing.passStarted_drawing (tablesOk_of_paramsOk (by rw [hkept.cfg]; exact hcfg))
    obtain ⟨hsecond, hkept'⟩ := runs_screenChunks hstarted ht
    exact ⟨runs_screenBoth hcfg hb hfirst hkept hsecond hkept', (hkept'.cfg.trans honly.cfg).trans hkept.cfg⟩
  | accent =>
    obtain ⟨hruns, hkept⟩ := runs_screenChunks h hdrawn
    exact ⟨hruns.seq <| (Runs.pure ()).seq <|
      runs_screenEnd (by rw [hkept.cfg]; exact hcfg) (by rw [hkept.env]; exact hb) hkept.drawing, hkept.cfg⟩

/-- CLIENT_DRAW_SCREEN up to its first transfer start, and what follows where the host does not stay at a wait (R95). -/
theorem runs_clientDrawScreen {g : State → EStateM.Result Stop State Status} {x : Option BusyWait × State}
    (h : s.DrawReady) (hpacked : s.cfg.packedPlanes = false) (hx : x = (s.ctxReset.passSet .mono).powerEnd)
    (hk : x.1 = none → Runs (screenAfterStart cb .mono) (x.2.passBegun .mono) (g x.2)) :
    Runs (clientDrawScreen cb) s (poweredThen (.drawScreen cb .mono) g x) := by
  have hready : (s.ctxReset.passSet .mono).DrawReady := h.of_eq rfl rfl rfl
  subst hx
  have hstart := (runs_issueStart (runs_powerUp hready (.drawScreen cb .mono)) (.powerEnd hready) .mono).after_start hk
  have hpass : Runs (screenPass cb .mono >>= fun _ => screenPass cb .accent >>= fun _ => screenEnd) s.ctxReset
      (poweredThen (.drawScreen cb .mono) g (s.ctxReset.passSet .mono).powerEnd) := by
    rw [screenPass]
    simp only [bind_assoc]
    exact .line <| .line <| .update <| .line hstart
  exact .line <| .get_bind <| .ite_neg (by simp [hpacked]) <| .line <| runs_drawCtxReset.seq hpass

theorem PowerLeaves.screenDrawing {x : Option BusyWait × State} (hx : PowerLeaves s x) (hnone : x.1 = none)
    (hplane : s.draw.passPlane = some p) (hcfg : paramsOk s.cfg = true) (hb : s.env.busy = []) :
    (x.2.passBegun p).Drawing p ∧ paramsOk (x.2.passBegun p).cfg = true ∧ (x.2.passBegun p).env.busy = [] := by
  have honly := EngineOnly.passBegun x.2 p
  refine ⟨hx.drawing hnone hplane (chunk_fits hcfg), ?_, ?_⟩
  · rw [honly.cfg, hx.cfg]
    exact hcfg
  · rw [honly.env, hx.busy]
    exact hb

/-! ### The closed forms -/

theorem ended_screenResult_of_live (h : s.cfg.assumePanelLive = true) :
    ended 0x21#8 (screenResult s) = (s.refreshed.nestedReturn 0x15#8 .ok).returned 0x21#8 .ok := by
  rw [screenResult, State.refreshEnd, if_pos h]
  rfl

/-- The end of a screen draw's refresh on a panel that is not live. -/
def State.screenFreeEnd (s : State) : State :=
  match s.refreshedFree with
  | (some low, u) => { u with hostPos := .refreshPoll low .drawScreen }
  | (none, u) => (u.nestedReturn 0x15#8 .ok).returned 0x21#8 .ok

theorem ended_screenResult_of_free (h : s.cfg.assumePanelLive = false) :
    ended 0x21#8 (screenResult s) = s.screenFreeEnd := by
  rw [screenResult, State.refreshEnd, if_neg (Bool.eq_false_iff.1 h), State.screenFreeEnd]
  generalize s.refreshedFree = x
  obtain ⟨_ | low, t⟩ := x <;> rfl

theorem State.screenFreeFrom_eq : s.screenFreeFrom cb p = (s.screenPasses cb p).map State.screenFreeEnd := rfl

/-- The draw of a panel that is not live, its power-up ending as `x` (R95, R114). -/
theorem exists_screenResult_of_free {x : Option BusyWait × State} (hlive : x.2.cfg.assumePanelLive = false)
    (hdrawing : x.1 = none →
      (x.2.passBegun p).Drawing p ∧ paramsOk (x.2.passBegun p).cfg = true ∧ (x.2.passBegun p).env.busy = [])
    (hdrawn : State.startOrStay (.drawScreen cb p) p some (State.screenFreeFrom cb p) x = some t) :
    ∃ g, (x.1 = none → Runs (screenAfterStart cb p) (x.2.passBegun p) (g x.2)) ∧
      ended 0x21#8 (poweredThen (.drawScreen cb p) g x) = t := by
  obtain ⟨_ | w, v⟩ := x
  · obtain ⟨hstarted, hcfg, hb⟩ := hdrawing rfl
    have hfrom : (v.passBegun p).screenFreeFrom cb p = some t := hdrawn
    rw [State.screenFreeFrom_eq] at hfrom
    obtain ⟨u, hu, rfl⟩ := Option.map_eq_some_iff.1 hfrom
    obtain ⟨hruns, hlast⟩ := runs_screenAfterStart hstarted hcfg hb hu
    refine ⟨fun _ => screenResult u, fun _ => hruns, ended_screenResult_of_free ?_⟩
    rw [hlast, (EngineOnly.passBegun v p).cfg]
    exact hlive
  · exact ⟨fun v => .ok .ok v, nofun, Option.some.inj hdrawn⟩

/-- A draw that stood at a busy wait of power-up (R95, R114). -/
theorem runs_screenHeld {wait : BusyWait} {g : State → EStateM.Result Stop State Status} (h : s.BusReady)
    (hb : s.env.busy = [])
    (hk : (s.powerEndFrom wait).1 = none →
      Runs (screenAfterStart cb p) ((s.powerEndFrom wait).2.passBegun p) (g (s.powerEndFrom wait).2)) :
    Runs (heldBody (.busyWait wait (.drawScreen cb p))) s (poweredThen (.drawScreen cb p) g (s.powerEndFrom wait)) :=
  (runs_commandStart (runs_powerUpFrom h hb _ wait) (.powerEndFrom h wait) p).after_start hk

/-! ### A callback whose first word is another command -/

theorem runs_screenAfterStart_of_badCallback {ws : List Word} (h : s.Drawing .mono) (hcfg : paramsOk s.cfg = true)
    (hwords : callbackWords s.cfg cb 0 0 .mono = w :: ws)
    (hw : (opcodeOf w).toNat < 0x22 ∨ 0x28 < (opcodeOf w).toNat) :
    Runs (screenAfterStart cb .mono) s
      (.error (.refuse (.badCallback w)) (s.chunkEntered 0).chunkZeroed.lineBegun) := by
  obtain ⟨n, hn⟩ := exists_numChunks hcfg
  obtain ⟨m, hm⟩ := exists_linesPerChunk hcfg
  have hword : Runs (callbackWord w) (s.chunkEntered 0).chunkZeroed.lineBegun
      (.error (.refuse (.badCallback w)) (s.chunkEntered 0).chunkZeroed.lineBegun) := .line <| .ite_pos hw <| .refuse _
  have htop : (s.chunkEntered 0).chunkZeroed.draw.chunkStartY = some 0#16 := by
    change some (toU16 (0 * s.cfg.linesPerChunk)) = _
    rw [Nat.zero_mul]
    rfl
  have hline : Runs (screenLine cb .mono 0 0) (s.chunkEntered 0).chunkZeroed
      (.error (.refuse (.badCallback w)) (s.chunkEntered 0).chunkZeroed.lineBegun) := by
    refine .line <| .update <| .get_bind <| .readReg htop <| Runs.stop <| Runs.stop ?_
    change Runs (forEach _ (callbackWords s.cfg cb 0 0 .mono)) _ _
    rw [hwords]
    exact (Runs.line hword).stop
  have hchunk : Runs (screenChunk cb .mono 0) s
      (.error (.refuse (.badCallback w)) (s.chunkEntered 0).chunkZeroed.lineBegun) := by
    refine .line <| (Runs.get_bind .write).seq <| .line <| (runs_zeroChunk (by exact h.fits)).seq <| .get_bind <|
      Runs.stop <| Runs.stop ?_
    change Runs (forEach _ (List.range s.cfg.linesPerChunk)) (s.chunkEntered 0).chunkZeroed _
    have hrange : List.range s.cfg.linesPerChunk = 0 :: (List.range m).map Nat.succ := by rw [hm, List.range_succ_eq_map]
    rw [hrange]
    exact (Runs.line hline).stop
  refine Runs.stop <| .get_bind <| Runs.stop ?_
  rw [hn, List.range_succ_eq_map]
  exact (Runs.line hchunk).stop

end Sys2Proof.Machine

/-! PROOF. CLIENT_DRAW_SCREEN of a callback whose words are windows and ends of text runs only: every chunk stays zero
(R93, R95, R97, R98, R102). -/

namespace Sys2Proof.Machine

variable {α : Type} {s t u : State} {p : Plane} {cb : Byte} {c l n : Nat} {w : Word}

/-! ### What the words change -/

/-- Between the two states only the windows, the cursor, the text run, the results and the trace differ. -/
def WindowOnly (s t : State) : Prop :=
  t = { s with
        draw := { s.draw with
                  curX := t.draw.curX, curY := t.draw.curY, winX0 := t.draw.winX0, winX1 := t.draw.winX1,
                  winY0 := t.draw.winY0, winY1 := t.draw.winY1, winDrawY := t.draw.winDrawY, bufIdx := t.draw.bufIdx,
                  winOutside := t.draw.winOutside, drawing := t.draw.drawing, printing := t.draw.printing },
        res := t.res, trace := t.trace }

/-- Words of windows and ends of text runs ran from `s` to `t`: nothing is sent, and a known cursor stays known. -/
structure WindowRun (s t : State) : Prop where
  only : WindowOnly s t
  account : Accounts s t [] [] 0 0
  cursor : s.draw.curX ≠ none → t.draw.curX ≠ none
  printing : s.draw.printing = false → t.draw.printing = false

namespace WindowRun

theorem refl (s : State) : WindowRun s s := ⟨rfl, .refl s, id, id⟩

theorem trans (h : WindowRun s t) (h' : WindowRun t u) : WindowRun s u := by
  refine ⟨?_, h.account.trans h'.account, h'.cursor ∘ h.cursor, h'.printing ∘ h.printing⟩
  have honly := h.only
  have honly' := h'.only
  unfold WindowOnly at *
  rw [honly', honly]

theorem chunkKept (h : WindowRun s t) : s.ChunkKept t := by
  have honly := h.only
  unfold WindowOnly at honly
  exact ⟨by rw [honly], by rw [honly], by rw [honly], by rw [honly], by rw [honly], by rw [honly]; exact s.inkKept_refl⟩

theorem drawOnly (h : WindowRun s t) : DrawOnly s t := by
  have honly := h.only
  unfold WindowOnly at honly
  rw [DrawOnly, honly]

theorem scratch (h : WindowRun s t) : t.draw.scratch = s.draw.scratch := by
  have honly := h.only
  unfold WindowOnly at honly
  rw [honly]

theorem frame (h : WindowRun s t) : t.draw.flashPtr = s.draw.flashPtr ∧ t.draw.color = s.draw.color ∧
    t.draw.fontSize = s.draw.fontSize ∧ t.draw.direction = s.draw.direction := by
  have honly := h.only
  unfold WindowOnly at honly
  exact ⟨by rw [honly], by rw [honly], by rw [honly], by rw [honly]⟩

/-- The RESULT of a word's command. -/
theorem nestedReturn (h : WindowRun s t) {op : Byte} (hop : op ≠ 0x14#8) (st : Status) :
    WindowRun s (t.nestedReturn op st) := by
  have htrace : (t.nestedReturn op st).trace = t.trace ++ [.result op st] := rfl
  have hreturn : Accounts t (t.nestedReturn op st) [] [] 0 0 :=
    (Accounts.of_events _ htrace rfl rfl rfl).of_eq rfl rfl (by simp [sentBytes, hop]) rfl
  exact h.trans ⟨rfl, hreturn, id, id⟩

end WindowRun

/-- A word that sets a window or ends a text run. -/
def IsWindow (w : Word) : Prop :=
  decode w = .ok .clientPrintEnd ∨ (∃ start width, decode w = .ok (.clientSetWindowX start width)) ∨
    ∃ start height, decode w = .ok (.clientSetWindowY start height)

theorem exists_windowWord {top : U16} (hdraw : s.draw.drawing = true) (htop : s.draw.chunkStartY = some top)
    (hx : s.draw.curX ≠ none) (hpacked : s.cfg.packedPlanes = false) (hw : IsWindow w) :
    ∃ t, Runs (callbackWord w) s (.ok () t) ∧ WindowRun s t ∧ t.draw.drawing = true := by
  obtain ⟨x, hx⟩ := Option.ne_none_iff_exists'.1 hx
  have hsame {v : State} (hepd : v.epd = s.epd) (htrace : v.trace = s.trace) : Accounts s v [] [] 0 0 :=
    .of_events [] (by rw [htrace, List.append_nil]) (by rw [State.inFlight, hepd, State.inFlight]) rfl rfl
  obtain hdecode | ⟨start, width, hdecode⟩ | ⟨start, height, hdecode⟩ := hw
  · have hrun : WindowRun s (s.onDraw fun d => { d with printing := false }) := ⟨rfl, hsame rfl rfl, id, fun _ => rfl⟩
    exact ⟨_, runs_callbackWord hdecode rfl (runs_clientPrintEnd hdraw).issue, hrun.nestedReturn (by decide) _, hdraw⟩
  · have hrun : WindowRun s (s.windowXSet start.toNat width.toNat) := ⟨rfl, hsame rfl rfl, fun _ => nofun, id⟩
    exact ⟨_, runs_callbackWord hdecode rfl (runs_clientSetWindowX hdraw start width).issue,
      hrun.nestedReturn (show 0x22#8 ≠ 0x14#8 by decide) _, hdraw⟩
  · have hrun : WindowRun s (s.windowYSet start.toNat height.toNat top x) := ⟨rfl, hsame rfl rfl, id, id⟩
    exact ⟨_, runs_callbackWord hdecode rfl (runs_clientSetWindowY hdraw start height htop hx hpacked).issue,
      hrun.nestedReturn (show 0x23#8 ≠ 0x14#8 by decide) _, hdraw⟩

/-! ### Scanlines -/

/-- Steps that each run on with `P` and end with `Q`, one after the other. -/
theorem exists_runs_forEach {P Q : State → Prop} {body : α → M Unit} {as : List α}
    (h : ∀ a ∈ as, ∀ s, P s → ∃ t, Runs (body a) s (.ok () t) ∧ P t ∧ Q t) (hs : P s) :
    ∃ t, Runs (forEach body as) s (.ok () t) ∧ P t ∧ (as ≠ [] ∨ Q s → Q t) := by
  induction as generalizing s with
  | nil => exact ⟨s, .pure (), hs, fun hq => hq.resolve_left fun hne => hne rfl⟩
  | cons a as ih =>
    obtain ⟨ha, has⟩ := List.forall_mem_cons.1 h
    obtain ⟨t, hfirst, ht, hq⟩ := ha s hs
    obtain ⟨u, hrest, hu, hlast⟩ := ih has ht
    exact ⟨u, hfirst.seq hrest, hu, fun _ => hlast (.inr hq)⟩

theorem exists_windowLine {top : U16} (htop : s.draw.chunkStartY = some top) (hx : s.draw.curX ≠ none)
    (hpacked : s.cfg.packedPlanes = false)
    (hwords : ∀ w ∈ callbackWords s.cfg cb (top.toNat + l) c p, IsWindow w) :
    ∃ t, Runs (screenLine cb p c l) s (.ok () t) ∧ WindowRun s t ∧ t.draw.drawing = false := by
  have hbegun : WindowRun s s.lineBegun := ⟨rfl, .of_events [] (List.append_nil _).symm rfl rfl rfl, id, id⟩
  have hended (v : State) : WindowRun v v.lineEnded := ⟨rfl, .of_events [] (List.append_nil _).symm rfl rfl rfl, id, id⟩
  obtain ⟨t, hruns, ⟨hrun, -⟩, -⟩ := exists_runs_forEach
    (P := fun v => WindowRun s v ∧ v.draw.drawing = true) (Q := fun _ => True)
    (body := fun w => Machine.atLine 0x21#8 11 >>= fun _ => callbackWord w)
    (fun w hw v hv => by
      obtain ⟨hrun, hdraw⟩ := hv
      have hkept := hrun.chunkKept
      obtain ⟨t, hword, hnext, hdraw'⟩ := exists_windowWord hdraw (hkept.top.trans htop) (hrun.cursor hx)
        (by rw [hkept.cfg]; exact hpacked) (hwords w hw)
      exact ⟨t, .line hword, ⟨hrun.trans hnext, hdraw'⟩, trivial⟩) (s := s.lineBegun) ⟨hbegun, rfl⟩
  exact ⟨t.lineEnded, runs_screenLine htop hruns, hrun.trans (hended t), rfl⟩

/-- The scanlines of a chunk whose lines are all on the screen. -/
theorem exists_windowLines {top : U16} (hcfg : paramsOk s.cfg = true) (htop : s.draw.chunkStartY = some top)
    (hx : s.draw.curX ≠ none) (hpacked : s.cfg.packedPlanes = false)
    (hwords : ∀ l, l < s.cfg.linesPerChunk → ∀ w ∈ callbackWords s.cfg cb (top.toNat + l) c p, IsWindow w) :
    ∃ t, Runs (forEach (fun l => Machine.atLine 0x21#8 9 >>= fun _ => screenLine cb p c l)
        (List.range s.cfg.linesPerChunk)) s (.ok () t) ∧ WindowRun s t ∧ t.draw.drawing = false := by
  obtain ⟨n, hn⟩ := exists_linesPerChunk hcfg
  obtain ⟨t, hruns, hrun, hlast⟩ := exists_runs_forEach (P := WindowRun s) (Q := fun v => v.draw.drawing = false)
    (body := fun l => Machine.atLine 0x21#8 9 >>= fun _ => screenLine cb p c l) (as := List.range s.cfg.linesPerChunk)
    (fun l hl v hv => by
      have hkept := hv.chunkKept
      obtain ⟨t, hline, hnext, hdraw⟩ := exists_windowLine (cb := cb) (c := c) (p := p) (l := l)
        (hkept.top.trans htop) (hv.cursor hx) (by rw [hkept.cfg]; exact hpacked)
        (by rw [hkept.cfg]; exact hwords l (List.mem_range.1 hl))
      exact ⟨t, .line hline, hv.trans hnext, hdraw⟩) (.refl s)
  exact ⟨t, hruns, hrun, hlast (.inl (by rw [hn, List.range_succ]; simp))⟩

/-! ### The chunks of a pass -/

/-- `n` chunks of a pass of zeros are done since `s`. -/
structure ZerosDone (p : Plane) (n : Nat) (s t : State) : Prop where
  only : DrawOnly s t
  drawing : t.Drawing p
  account : Accounts s t (streamed s.cfg p s.epd.streamIdx (List.replicate (n * chunkBytes s.cfg) 0#8)) []
    ((List.replicate (n * chunkBytes s.cfg) 0#8).flatMap (repack s.cfg p)).length 0
  index : t.epd.streamIdx = s.epd.streamIdx +
    ((List.replicate (n * chunkBytes s.cfg) 0#8).flatMap (repack s.cfg p)).length
  frame : t.draw.flashPtr = s.draw.flashPtr ∧ t.draw.color = s.draw.color ∧ t.draw.fontSize = s.draw.fontSize ∧
    t.draw.direction = s.draw.direction
  cursor : t.draw.curX ≠ none
  printing : t.draw.printing = false
  outside : ∀ o, chunkBytes s.cfg ≤ o → t.draw.scratch.read o = s.draw.scratch.read o
  last : n ≠ 0 → t.draw.drawing = false ∧ ∀ o, o < chunkBytes s.cfg → t.draw.scratch.read o = some 0#8

theorem ZerosDone.zero (h : s.Drawing p) (hx : s.draw.curX ≠ none) (hprint : s.draw.printing = false) :
    ZerosDone p 0 s s where
  only := .refl s
  drawing := h
  account := by rw [Nat.zero_mul]; exact .refl s
  index := by rw [Nat.zero_mul]; rfl
  frame := ⟨rfl, rfl, rfl, rfl⟩
  cursor := hx
  printing := hprint
  outside := fun _ _ => rfl
  last := fun hne => absurd rfl hne

/-- The first line of a chunk is on the screen. -/
theorem chunkTop_toNat {c : Params} (hcfg : paramsOk c = true) (hn : n < c.numChunks) :
    (toU16 (n * c.linesPerChunk)).toNat = n * c.linesPerChunk ∧
      ∀ l, l < c.linesPerChunk → n * c.linesPerChunk + l < c.screenH := by
  obtain ⟨⟨-, -, -, -, -, -, ⟨-, hscreen⟩, -⟩, -, -, -, -, ⟨-, hlines, -⟩, -⟩ := (paramsOk_iff c).1 hcfg
  have hle : (n + 1) * c.linesPerChunk ≤ c.screenH := by
    rw [← hlines]
    exact Nat.mul_le_mul_right _ hn
  rw [Nat.add_one_mul] at hle
  exact ⟨Nat.mod_eq_of_lt (by omega), fun l hl => by omega⟩

/-- One more chunk. -/
theorem ZerosDone.succ (h : ZerosDone p n s t) (hcfg : paramsOk s.cfg = true) (hpacked : s.cfg.packedPlanes = false)
    (hwords : ∀ y, y < s.cfg.screenH → ∀ w ∈ callbackWords s.cfg cb y n p, IsWindow w) (hn : n < s.cfg.numChunks) :
    ∃ u, Runs (screenChunk cb p n) t (.ok () u) ∧ ZerosDone p (n + 1) s u := by
  have hcfg' := h.only.cfg
  obtain ⟨htop, hon⟩ := chunkTop_toNat hcfg hn
  obtain ⟨v, hlines, hrun, hdraw⟩ := exists_windowLines (s := (t.chunkEntered n).chunkZeroed) (cb := cb) (c := n) (p := p)
    (top := toU16 (n * t.cfg.linesPerChunk)) (by exact hcfg'.symm ▸ hcfg) rfl h.cursor (by exact hcfg'.symm ▸ hpacked)
    (by
      change ∀ l, l < t.cfg.linesPerChunk → ∀ w ∈ callbackWords t.cfg cb _ n p, IsWindow w
      rw [hcfg', htop]
      exact fun l hl => hwords _ (hon l hl))
  have hkept := hrun.chunkKept
  obtain ⟨hchunk, hdrawing⟩ := runs_screenChunk h.drawing hlines hkept
  have hzero : Accounts t (t.chunkEntered n).chunkZeroed [] [] 0 0 := .of_events [] (List.append_nil _).symm rfl rfl rfl
  have hzeros : (t.chunkEntered n).chunkZeroed.draw.scratch =
      t.draw.scratch.writeBytes 0 (List.replicate (chunkBytes s.cfg) 0#8) := by
    rw [← hcfg']
    rfl
  have hv : v.Drawing p := ((h.drawing.chunkEntered n).chunkSet _).of_eq hkept.epd hkept.cfg hkept.env hkept.plane
  obtain ⟨hsent, hidx, hlast⟩ := Accounts.chunkFilled (s := t) hv (hzero.trans hrun.account)
    (congrArg (fun d => d.streamIdx) hkept.epd) hkept.cfg (List.length_replicate.trans (congrArg chunkBytes hcfg'.symm))
    (hrun.scratch.trans hzeros)
  have hmore : List.replicate ((n + 1) * chunkBytes s.cfg) 0#8 =
      List.replicate (n * chunkBytes s.cfg) 0#8 ++ List.replicate (chunkBytes s.cfg) 0#8 := by
    rw [Nat.add_one_mul, List.replicate_add]
  obtain ⟨hptr, hcolor, hfont, hdir⟩ := hrun.frame
  obtain ⟨hptr', hcolor', hfont', hdir'⟩ := h.frame
  rw [hcfg', h.index] at hsent
  rw [hcfg', h.index] at hidx
  refine ⟨_, hchunk, (h.only.trans (.chunkEntered t n)).trans <| (DrawOnly.chunkSet _ _).trans <|
      hrun.drawOnly.trans (EngineOnly.chunkStreamed v p).drawOnly, hdrawing, ?_, ?_, ?_, ?_, ?_, fun o ho => ?_,
    fun _ => ⟨?_, fun o ho => ?_⟩⟩
  · rw [hmore, streamed_append, List.flatMap_append, List.length_append]
    exact h.account.trans hsent
  · rw [hidx, hmore, List.flatMap_append, List.length_append, Nat.add_assoc]
  · rw [hlast]
    exact ⟨hptr.trans hptr', hcolor.trans hcolor', hfont.trans hfont', hdir.trans hdir'⟩
  · rw [hlast]
    exact hrun.cursor h.cursor
  · rw [hlast]
    exact hrun.printing h.printing
  · rw [hlast, hrun.scratch, hzeros, ← h.outside o ho]
    exact Memory.read_writeBytes_above _ _ (by rw [List.length_replicate]; omega)
  · rw [hlast]
    exact hdraw
  · rw [hlast, hrun.scratch, hzeros, Memory.read_chunk _ (by rw [List.length_replicate]; exact ho)]
    simp [ho]

/-- The chunks of a pass stay zero. -/
theorem exists_zerosDone (h : s.Drawing p) (hcfg : paramsOk s.cfg = true) (hpacked : s.cfg.packedPlanes = false)
    (hx : s.draw.curX ≠ none) (hprint : s.draw.printing = false)
    (hwords : ∀ y c, y < s.cfg.screenH → c < s.cfg.numChunks → ∀ w ∈ callbackWords s.cfg cb y c p, IsWindow w) :
    ∃ t, Runs (screenChunks cb p) s (.ok () t) ∧ ZerosDone p s.cfg.numChunks s t := by
  have hdone (n : Nat) (hn : n ≤ s.cfg.numChunks) :
      ∃ t, Runs (forEach (fun c => Machine.atLine 0x21#8 6 >>= fun _ => screenChunk cb p c) (List.range n)) s
        (.ok () t) ∧ ZerosDone p n s t := by
    induction n with
    | zero => exact ⟨s, .pure (), .zero h hx hprint⟩
    | succ n ih =>
      obtain ⟨t, hruns, ht⟩ := ih (Nat.le_of_succ_le hn)
      obtain ⟨u, hchunk, hu⟩ := ht.succ hcfg hpacked (fun y hy => hwords y n hy hn) hn
      refine ⟨u, ?_, hu⟩
      rw [List.range_succ, forEach_append]
      exact hruns.seq <| (Runs.line hchunk).seq <| .pure ()
  obtain ⟨t, hruns, ht⟩ := hdone _ (Nat.le_refl _)
  exact ⟨t, .get_bind <| hruns.seq (.atLine _ _), ht⟩

/-! ### Both passes -/

/-- The draw of a callback of windows only, on a live panel, up to its refresh (R95). -/
theorem exists_windowScreen (h : s.DrawReady) (hlive : s.cfg.assumePanelLive = true)
    (hpacked : s.cfg.packedPlanes = false)
    (hwords : ∀ y c p, y < s.cfg.screenH → c < s.cfg.numChunks → ∀ w ∈ callbackWords s.cfg cb y c p, IsWindow w) :
    ∃ t, Runs (screenAfterStart cb .mono) (s.ctxReset.passStarted .mono) (screenResult t) ∧ DrawOnly s t ∧
      t.Drawing .accent ∧
      Accounts s t ((if s.epd.epdPowered = true then [] else powerUpBytes s.cfg) ++
        (passBytes s.cfg .mono (zeroBytes s) ++ passBytes s.cfg .accent (zeroBytes s))) []
        (2 * s.cfg.numChunks * chunkBytes s.cfg * s.cfg.nativeBpp) 0 ∧
      (t.draw.drawing = false ∧ t.draw.passPlane = some .accent ∧ t.draw.flashPtr = none ∧ t.draw.color = some .mono ∧
        t.draw.fontSize = some 1#8 ∧ t.draw.direction = some .horizontal ∧ t.draw.printing = false) ∧
      ∀ o, t.draw.scratch.read o = if o < chunkBytes s.cfg then some 0#8 else none := by
  have hready : (s.ctxReset.passSet .mono).DrawReady := h.of_eq rfl rfl rfl
  have hleaves := PowerLeaves.powerEnd hready
  rw [State.powerEnd_of_live (by exact hlive)] at hleaves
  have hstart : Accounts s (s.ctxReset.passStarted .mono) _ _ 0 0 :=
    (Accounts.of_events (t := s.ctxReset) [] (List.append_nil _).symm rfl rfl rfl).trans
      (passStarted_account (p := .mono) (s := s.ctxReset) (h.of_eq rfl rfl rfl))
  have honly : DrawOnly s (s.ctxReset.passStarted .mono) :=
    DrawOnly.trans (t := s.ctxReset) rfl (.passStarted _ _)
  have hdraw : (s.ctxReset.passStarted .mono).draw = (s.ctxReset.passSet .mono).draw :=
    (EngineOnly.passBegun _ .mono).draw.trans hleaves.draw
  have hidx : (s.ctxReset.passStarted .mono).epd.streamIdx = 0 := rfl
  have hdrawing : (s.ctxReset.passStarted .mono).Drawing .mono := hleaves.drawing rfl rfl (chunk_fits h.params)
  generalize s.ctxReset.passStarted .mono = b at *
  have hcfg := honly.cfg
  obtain ⟨t, hfirst, hmono⟩ := exists_zerosDone (cb := cb) hdrawing (by rw [hcfg]; exact h.params)
    (by rw [hcfg]; exact hpacked) (by rw [hdraw]; nofun) (by rw [hdraw]; rfl)
    (by rw [hcfg]; exact fun y c => hwords y c .mono)
  have hcfgt : t.cfg = s.cfg := hmono.only.cfg.trans hcfg
  have htables : TablesOk t.cfg := by rw [hcfgt]; exact tablesOk_of_paramsOk h.params
  have hbegun : Accounts t (t.passStarted .accent) _ _ 0 0 := Accounts.passStarted (p := .accent) hmono.drawing htables
  have hnext : (t.passStarted .accent).Drawing .accent := hmono.drawing.passStarted_drawing htables
  have honly' := DrawOnly.passStarted t .accent
  have hset := hmono.drawing.passStarted .accent
  have hdraw' : (t.passStarted .accent).draw = { t.draw with passPlane := some .accent } := by
    rw [hset, (EngineOnly.passBegun _ .accent).draw]
    rfl
  have hidx' : (t.passStarted .accent).epd.streamIdx = 0 := by rw [hset]; rfl
  have hcfg' : (t.passStarted .accent).cfg = s.cfg := honly'.cfg.trans hcfgt
  obtain ⟨u, hsecond, haccent⟩ := exists_zerosDone (cb := cb) hnext (by rw [hcfg']; exact h.params)
    (by rw [hcfg']; exact hpacked) (by rw [hdraw']; exact hmono.cursor) (by rw [hdraw']; exact hmono.printing)
    (by rw [hcfg']; exact fun y c => hwords y c .accent)
  obtain ⟨n, hn⟩ := exists_numChunks h.params
  obtain ⟨hoff, hzero⟩ := haccent.last (by rw [hcfg', hn]; nofun)
  obtain ⟨hptr, hcolor, hfont, hdir⟩ := hmono.frame
  obtain ⟨hptr', hcolor', hfont', hdir'⟩ := haccent.frame
  rw [hdraw] at hptr hcolor hfont hdir
  rw [hdraw'] at hptr' hcolor' hfont' hdir'
  refine ⟨u, runs_screenBoth (by rw [hcfg]; exact h.params) (by rw [honly.env]; exact h.noneGiven) hfirst
      ⟨hmono.drawing, hmono.only.env, hmono.only.cfg⟩ hsecond ⟨haccent.drawing, haccent.only.env, haccent.only.cfg⟩,
    honly.trans <| hmono.only.trans <| honly'.trans haccent.only, haccent.drawing, ?_,
    ⟨hoff, haccent.drawing.plane, hptr'.trans hptr, hcolor'.trans hcolor, hfont'.trans hfont, hdir'.trans hdir,
      haccent.printing⟩, fun o => ?_⟩
  · have hsent := hmono.account
    have hsent' := haccent.account
    rw [hcfg, hidx, length_flatMap_repack h.params, List.length_replicate] at hsent
    rw [hcfg', hidx', length_flatMap_repack h.params, List.length_replicate] at hsent'
    rw [hcfgt] at hbegun
    refine (((hstart.trans hsent).trans hbegun).trans hsent').of_eq ?_ rfl ?_ rfl
    · simp only [passBytes_eq, zeroBytes, List.append_assoc, List.nil_append]
      rfl
    · simp only [Nat.two_mul, Nat.add_mul, Nat.zero_add, Nat.add_zero]
  · split
    next ho => exact hzero o (by rw [hcfg']; exact ho)
    next ho =>
      have hout := Nat.not_lt.1 ho
      rw [haccent.outside o (by rw [hcfg']; exact hout), hdraw']
      refine (hmono.outside o (by rw [hcfg]; exact hout)).trans ?_
      rw [hdraw]
      rfl

end Sys2Proof.Machine

namespace Sys2Proof

open Sys2Proof.Machine

/-- Settles O52: the callback's words run as issued, or as windows, or the first one is refused, and the draw ends as an
image's does. -/
theorem drawScreenRunsBothPasses : Obligations.DrawScreenRunsBothPasses := by
  have hheld {s : State} {cb : Byte} {p : Plane} {wait : BusyWait} {r : EStateM.Result Stop State Status}
      (h : Runs (heldBody (.busyWait wait (.drawScreen cb p))) s r) (hs : s.HeldQuiet)
      (hpos : s.hostPos = .busyWait wait (.drawScreen cb p)) : step s = .next (ended 0x21#8 r) := by
    have hhold : s.hostPos.IsHold := by rw [hpos]; exact ⟨nofun, nofun⟩
    rw [Runs.step_held hs hhold (r := r) (by rw [hpos]; exact h), hpos]
    rfl
  refine ⟨fun s cb hq => ⟨fun hpacked => ?_, fun hpacked hcfg hlive hb hr hc => ?_,
      fun hpacked hcfg hlive hb hr hc t hunmarked hdrawn => ?_⟩,
    fun s t cb p wait hs hpos hb hcfg hc hplane => ⟨fun hlive hdrawn => ?_, fun hlive hdrawn => ?_⟩⟩
  · exact Runs.exec (i := .clientDrawScreen cb) (.line <| .get_bind <| .ite_pos hpacked <| .refuse _) hq
  · have hready : s.DrawReady := ⟨hq, hr, hc, hcfg, hb⟩
    have hleaves := PowerLeaves.powerEnd (s := s.ctxReset.passSet .mono) (hready.of_eq rfl rfl rfl)
    have hend : (none, (s.ctxReset.passSet .mono).poweredUp) = (s.ctxReset.passSet .mono).powerEnd :=
      (State.powerEnd_of_live (by exact hlive)).symm
    rw [← hend] at hleaves
    obtain ⟨hdrawing, hcfg', hb'⟩ := hleaves.screenDrawing rfl (p := .mono) rfl hcfg hb
    have hlive' : ((s.ctxReset.passSet .mono).poweredUp.passBegun .mono).cfg = s.cfg :=
      (EngineOnly.passBegun _ .mono).cfg.trans hleaves.cfg
    have hexec {r : EStateM.Result Stop State Status}
        (h : Runs (screenAfterStart cb .mono) ((s.ctxReset.passSet .mono).poweredUp.passBegun .mono) r) :
        exec (.clientDrawScreen cb) s = .next (ended 0x21#8 r) :=
      Runs.exec (i := .clientDrawScreen cb) (runs_clientDrawScreen (g := fun _ => r) hready hpacked hend fun _ => h) hq
    refine ⟨fun w ws hwords hw => ?_, fun hwindows => ?_, fun t hunmarked hdrawn => ?_⟩
    · rw [← hlive'] at hwords
      exact ⟨_, hexec (runs_screenAfterStart_of_badCallback hdrawing hcfg' hwords hw), rfl, rfl, rfl, rfl⟩
    · obtain ⟨v, hruns, honly, hlast, haccount, ⟨hdrawing', hplane, hptr, hcolor, hfont, hdir, hprint⟩, hscratch⟩ :=
        exists_windowScreen hready hlive hpacked hwindows
      have hlive'' : v.cfg.assumePanelLive = true := by rw [honly.cfg]; exact hlive
      obtain ⟨u, hu⟩ : ∃ u, u = (v.refreshed.nestedReturn 0x15#8 .ok).returned 0x21#8 .ok := ⟨_, rfl⟩
      obtain ⟨⟨ev, htrace, hsent, hreads, hn, hk⟩, ⟨hbatt, hoff, hidle⟩, hframe⟩ :=
        drawEnded (by decide) honly hlast hcfg haccount hu
      have hdraw : u.draw = v.draw := by rw [hframe]
      rw [← hdraw] at hdrawing' hplane hptr hcolor hfont hdir hprint hscratch
      refine ⟨u, ev, (hexec hruns).trans (congrArg _ ((ended_screenResult_of_live hlive'').trans hu.symm)), htrace, ?_,
        hreads, hn, hk, hbatt, by rw [hframe], hoff, hidle, hdrawing', hplane, hptr, hcolor, hfont, hdir, hprint,
        hscratch, by rw [hframe], by rw [hframe], by rw [hframe], by rw [hframe], by rw [hframe], by rw [hframe],
        by rw [hframe], by rw [hframe], by rw [hframe], by rw [hframe], by rw [hframe]⟩
      rw [hsent, State.drawBytes]
      simp only [List.append_assoc]
    · obtain ⟨u, hu, rfl⟩ := Option.map_eq_some_iff.1 hdrawn
      obtain ⟨hruns, hlast⟩ := runs_screenAfterStart hdrawing hcfg' hb' hu
      exact (hexec hruns).trans (congrArg _ (ended_screenResult_of_live (by rw [hlast, hlive']; exact hlive)))
  · have hready : s.DrawReady := ⟨hq, hr, hc, hcfg, hb⟩
    have hleaves := PowerLeaves.powerEnd (s := s.ctxReset.passSet .mono) (hready.of_eq rfl rfl rfl)
    have hdrawing (hnone) := hleaves.screenDrawing hnone (p := .mono) rfl hcfg hb
    have hfree : (s.ctxReset.passSet .mono).powerEnd = (s.ctxReset.passSet .mono).poweredFree :=
      State.powerEnd_of_free (by exact hlive)
    obtain ⟨g, hk, hend⟩ := exists_screenResult_of_free (by rw [hleaves.cfg]; exact hlive) hdrawing
      (by rw [hfree]; exact hdrawn)
    rw [← hend]
    exact Runs.exec (i := .clientDrawScreen cb) (runs_clientDrawScreen hready hpacked rfl hk) hq
  · have hbus := hs.busReady hc hcfg
    have hleaves := PowerLeaves.powerEndFrom hbus wait
    have hend : s.powerEndFrom wait = (none, s.programmedFrom wait) := if_pos hlive
    have hcfg' := (EngineOnly.passBegun (s.powerEndFrom wait).2 p).cfg.trans hleaves.cfg
    have hstep {g} (hk) := hheld (runs_screenHeld (cb := cb) (p := p) (wait := wait) (g := g) hbus hb hk) hs hpos
    rw [hend] at hleaves hcfg' hstep
    obtain ⟨hdrawing, hparams, hb'⟩ := hleaves.screenDrawing rfl hplane hcfg hb
    obtain ⟨u, hu, rfl⟩ := Option.map_eq_some_iff.1 hdrawn
    obtain ⟨hruns, hlast⟩ := runs_screenAfterStart hdrawing hparams hb' hu
    exact (hstep (g := fun _ => screenResult u) fun _ => hruns).trans
      (congrArg _ (ended_screenResult_of_live (by rw [hlast, hcfg']; exact hlive)))
  · have hbus := hs.busReady hc hcfg
    have hleaves := PowerLeaves.powerEndFrom hbus wait
    have hfree : s.powerEndFrom wait = s.freeFrom wait := if_neg (Bool.eq_false_iff.1 hlive)
    have hdrawing (hnone) := hleaves.screenDrawing hnone hplane hcfg hb
    obtain ⟨g, hk, hend⟩ := exists_screenResult_of_free (by rw [hleaves.cfg]; exact hlive) hdrawing
      (by rw [hfree]; exact hdrawn)
    rw [← hend]
    exact hheld (runs_screenHeld hbus hb hk) hs hpos

end Sys2Proof
